-- ==== Sys2Proof/Word.lean ====
section
/-! DEFINITION. The word types of the machine (00_scope.md R3, R9, R10): bytes for registers, cells and timers, 16-bit words for instruction words, `pc`, I and stack entries; every value is unsigned. -/

namespace Sys2Proof

/-- An 8-bit value: a general register, a memory cell, a timer (R3). -/
abbrev Byte := BitVec 8

/-- A 16-bit value: an instruction word, `pc`, I, a stack entry (R3). -/
abbrev Word := BitVec 16

end Sys2Proof
end

