-- ==== Sys2Proof/Config.lean ====
section
/-! DEFINITION. The entry point (00_scope.md R7) and the one free value, the random source (41_alu.md R166). The other sizes of R7
(4096 cells, 16 registers, 16 stack entries, 64 by 32 pixels) stand as literals in the types and operations that have them. -/

namespace Sys2Proof

/-- The entry point, a constant of `reset` (10_state.md R25, 20_memory.md R61). -/
abbrev Config.resetPc : Word := 0x200#16

/-- FREE VALUE. The byte the random source supplies for draw number `k` (41_alu.md R166: "A model takes `rand()` as a free
8-bit draw per execution, under no law, so that a claim holds for every value"). It has no body, so nothing can evaluate it
(log 2). -/
opaque Config.randomByte : Nat → Byte

end Sys2Proof
end

