-- ==== Sys2Proof/Machine/Framebuffer.lean ====
section
/-! DEFINITION. The framebuffer and the pixel loop of Dxyn (10_state.md R33; 43_display.md R190 to R192). -/

namespace Sys2Proof.Machine

/-- 32 rows of 64 cells; bit `x` of row `y` is FB[x, y] (R33, log 5). -/
abbrev Framebuffer := Vector (BitVec 64) 32

/-- FB[x, y], true = set. -/
def Framebuffer.cell (fb : Framebuffer) (x : Fin 64) (y : Fin 32) : Bool := fb[y].getLsbD x.val

/-- `FB[x, y] <- FB[x, y] xor 1`. -/
def Framebuffer.toggle (fb : Framebuffer) (x : Fin 64) (y : Fin 32) : Framebuffer :=
  fb.set y.val (fb[y] ^^^ BitVec.twoPow 64 x.val)

/-- Every cell clear (R190). -/
def Framebuffer.clear : Framebuffer := Vector.replicate 32 0#64

/-- What a draw has done so far: the framebuffer, and whether some cell went from set to clear. -/
structure Drawing where
  fb : Framebuffer
  collision : Bool
deriving DecidableEq, Repr

/-- One set sprite bit at column `px`, row `py` (R191): note a collision, then toggle the cell. -/
def Drawing.pixel (px : Fin 64) (py : Fin 32) (d : Drawing) : Drawing :=
  { fb := d.fb.toggle px py, collision := d.collision || d.fb.cell px py }

/-- The column of bit `7 - c` of a sprite row: `(vx + c) mod 64` (R191, D4, log 9). -/
def spriteColumn (vx : Byte) (c : Nat) : Fin 64 := Fin.ofNat 64 (vx.toNat + c)

/-- The framebuffer row of sprite row `r`: `(vy + r) mod 32` (R191, D4, log 9). -/
def spriteRow (vy : Byte) (r : Nat) : Fin 32 := Fin.ofNat 32 (vy.toNat + r)

/-- One sprite row: for `c = 0` to 7, bit `7 - c` of the row byte (R191). -/
def Drawing.row (vx : Byte) (py : Fin 32) (row : Byte) (d : Drawing) : Drawing :=
  (List.range 8).foldl (fun d c => if row.getLsbD (7 - c) then d.pixel (spriteColumn vx c) py else d) d

/-- The sprite rows from number `r` on (R191). -/
def Drawing.sprite (vx vy : Byte) : Nat → List Byte → Drawing → Drawing
  | _, [], d => d
  | r, row :: rows, d => Drawing.sprite vx vy (r + 1) rows (d.row vx (spriteRow vy r) row)

/-- The whole draw: sprite rows from number 0, with no collision yet (R191). -/
def drawSprite (vx vy : Byte) (rows : List Byte) (fb : Framebuffer) : Drawing :=
  Drawing.sprite vx vy 0 rows { fb := fb, collision := false }

end Sys2Proof.Machine
end

