-- ==== Sys2Proof/Machine/Memory.lean ====
section
/-! DEFINITION. Memory as a list of cells in one canonical form (10_state.md R35; 20_memory.md R60 to R62; log 25). -/

namespace Sys2Proof.Machine

/-- What an address that is not listed reads as: its content after reset, the font table at 0x050 to 0x09F and 0 elsewhere
(10_state.md R43, 20_memory.md R65). -/
def Memory.unlisted (font : Vector Byte 80) (a : Nat) : Byte :=
  if h : 0x050 ≤ a ∧ a < 0x0A0 then font[a - 0x050]'(by omega) else 0#8

/-- The content of cell `a` (20_memory.md R62). -/
def Memory.read (font : Vector Byte 80) : List Host.Cell → Nat → Byte
  | [], a => Memory.unlisted font a
  | (b, w) :: m, a => if b = a then w else Memory.read font m a

/-- Put the cell `(a, v)` in front of cells that all lie higher, unless it says nothing new. -/
def Memory.cons (font : Vector Byte 80) (a : Nat) (v : Byte) (m : List Host.Cell) : List Host.Cell :=
  if v = Memory.unlisted font a then m else (a, v) :: m

/-- Set cell `a` to `v` (20_memory.md R62), keeping the canonical form. -/
def Memory.write (font : Vector Byte 80) (a : Nat) (v : Byte) : List Host.Cell → List Host.Cell
  | [] => Memory.cons font a v []
  | (b, w) :: m =>
    if a < b then Memory.cons font a v ((b, w) :: m)
    else if a = b then Memory.cons font a v m
    else (b, w) :: Memory.write font a v m

/-- The canonical form from address `lo` on: addresses strictly rising and inside memory, no cell equal to what it would read
as unlisted. -/
def Memory.wfFrom (font : Vector Byte 80) : Nat → List Host.Cell → Bool
  | _, [] => true
  | lo, (a, v) :: m =>
    decide (lo ≤ a) && decide (a < 0x1000) && decide (v ≠ Memory.unlisted font a) && Memory.wfFrom font (a + 1) m

/-- The canonical form of memory. -/
def Memory.wf (font : Vector Byte 80) (m : List Host.Cell) : Bool := Memory.wfFrom font 0 m

/-- Write bytes to consecutive addresses from `a` up (20_memory.md R67). -/
def Memory.writeBytes (font : Vector Byte 80) : Nat → List Byte → List Host.Cell → List Host.Cell
  | _, [], m => m
  | a, b :: bs, m => Memory.writeBytes font (a + 1) bs (Memory.write font a b m)

/-- Read `n` bytes at consecutive addresses from `a` up (20_memory.md R67). -/
def Memory.readBytes (font : Vector Byte 80) (m : List Host.Cell) : Nat → Nat → List Byte
  | _, 0 => []
  | a, n + 1 => Memory.read font m a :: Memory.readBytes font m (a + 1) n

end Sys2Proof.Machine
end

