-- ==== Sys2Proof/Machine/Font.lean ====
section
/-! DEFINITION. The font table that 20_memory.md R66 proposes for the parameter FONT. -/

namespace Sys2Proof.Machine

/-- PRESUMED (log 1). The 80 bytes of the conventional font, glyph 0 first, as the table of 20_memory.md R66 lists them "from
general knowledge, not in source". It is only the value of the parameter FONT in `State.reset`; every meaning reads the
parameter from the state's field `font`. -/
def conventionalFont : Vector Byte 80 :=
  #v[0xF0#8, 0x90#8, 0x90#8, 0x90#8, 0xF0#8] ++
  #v[0x20#8, 0x60#8, 0x20#8, 0x20#8, 0x70#8] ++
  #v[0xF0#8, 0x10#8, 0xF0#8, 0x80#8, 0xF0#8] ++
  #v[0xF0#8, 0x10#8, 0xF0#8, 0x10#8, 0xF0#8] ++
  #v[0x90#8, 0x90#8, 0xF0#8, 0x10#8, 0x10#8] ++
  #v[0xF0#8, 0x80#8, 0xF0#8, 0x10#8, 0xF0#8] ++
  #v[0xF0#8, 0x80#8, 0xF0#8, 0x90#8, 0xF0#8] ++
  #v[0xF0#8, 0x10#8, 0x20#8, 0x40#8, 0x40#8] ++
  #v[0xF0#8, 0x90#8, 0xF0#8, 0x90#8, 0xF0#8] ++
  #v[0xF0#8, 0x90#8, 0xF0#8, 0x10#8, 0xF0#8] ++
  #v[0xF0#8, 0x90#8, 0xF0#8, 0x90#8, 0x90#8] ++
  #v[0xE0#8, 0x90#8, 0xE0#8, 0x90#8, 0xE0#8] ++
  #v[0xF0#8, 0x80#8, 0x80#8, 0x80#8, 0xF0#8] ++
  #v[0xE0#8, 0x90#8, 0x90#8, 0x90#8, 0xE0#8] ++
  #v[0xF0#8, 0x80#8, 0xF0#8, 0x80#8, 0xF0#8] ++
  #v[0xF0#8, 0x80#8, 0xF0#8, 0x80#8, 0x80#8]

end Sys2Proof.Machine
end

