-- ==== Sys2Proof/Machine/State.lean ====
section
/-! DEFINITION. The state of the machine (10_state.md R23 to R35), its fault and refusal reasons, and the state right after
reset (R43, 70_reset_and_hazards.md R260). Plain data. -/

namespace Sys2Proof.Machine

/-- The content of FAULT_KIND (10_state.md R34); its number is `FaultKind.code` (D11, log 7). -/
inductive FaultKind where
  /-- 0: no fatal fault since reset. -/
  | none
  /-- 1: memory or `pc` access beyond 0x000 to 0xFFF. -/
  | outOfBounds
  /-- 2: call beyond 16 nested levels. -/
  | stackOverflow
  /-- 3: return with empty stack. -/
  | stackUnderflow
deriving DecidableEq, Repr

/-- The three fatal faults (60_exceptions.md R220), as the operation `takeFault` takes them. Taking one is a NEXT state
(R226); no function of the model answers `Host.Outcome.fault` (log 3). -/
inductive Fault where
  /-- Raised by the fetch with `pc > 0xFFE` and by Dxyn, Fx33, Fx55, Fx65 with an address above 0xFFF (R221), with the address
  R229 reports. SAFE: the spec's own state change is modelled whole. -/
  | outOfBounds (address : Word)
  /-- Raised by 2nnn with SP = 16 (R222). SAFE, as above. -/
  | stackOverflow
  /-- Raised by 00EE with SP = 0 (R223). SAFE, as above. -/
  | stackUnderflow
deriving DecidableEq, Repr

/-- What the model gives no meaning to. No step is refused by any of these; the last two are refusals of host operations. -/
inductive Refusal where
  /-- An instruction without a meaning, by its mnemonic. Raised by nothing: every instruction has its meaning. SAFE. -/
  | notModelled (mnemonic : String)
  /-- Raised by `load` with offset + length = 0x1000: "a model gives `offset + length = 0x1000` no meaning (refuse)"
  (70_reset_and_hazards.md R266, C4, D18, log 19). SAFE. -/
  | loadBoundaryCase
  /-- Raised by `setKey` with an index above 15: "outside the operation's domain and the spec gives it no meaning"
  (60_exceptions.md R237, D29, log 20). SAFE. -/
  | keyIndexOutsideDomain
deriving DecidableEq, Repr

/-- The whole state. Names are those of 00_scope.md R11 in lower case. -/
structure State where
  /-- V0 to VF (R23, R24). -/
  v : Vector Byte 16
  /-- The index register I (R29). -/
  i : Word
  /-- The program counter (R25). -/
  pc : Word
  /-- SP, the count of pushed entries, 0 to 16 (R30, log 6). -/
  sp : Fin 17
  /-- STACK[0..15]; the live entries are those below SP (R30, log 6). -/
  stack : Vector Word 16
  /-- The delay timer (R31). -/
  dt : Byte
  /-- The sound timer (R31). -/
  st : Byte
  /-- KEY[0..15], true = pressed (R32). -/
  keys : Vector Bool 16
  /-- The framebuffer (R33): bit `x` of row `y` is FB[x, y] (log 5). -/
  fb : Vector (BitVec 64) 32
  /-- HALT (R34). -/
  halt : Bool
  /-- FAULT_KIND (R34). -/
  faultKind : FaultKind
  /-- FAULT_ADDR (R34). -/
  faultAddr : Word
  /-- Memory (R35), in canonical form: the cells that differ from what an unlisted address reads as (log 25). -/
  memory : List Host.Cell
  /-- The model's own: the parameter FONT (20_memory.md R66, log 1). No transaction changes it. -/
  font : Vector Byte 80
  /-- The model's own: how many bytes of the random source have been sampled (41_alu.md R166, log 2). -/
  randomDraws : Nat
deriving DecidableEq, Repr

/-- The state right after `reset` (R43). `font` is PRESUMED (log 1) and `randomDraws` a DESIGN CHOICE (log 2); every other
value is the table's of R43, memory among them: nothing is listed, so every cell reads 0 but the font table. -/
def State.reset : State where
  v := Vector.replicate 16 0#8
  i := 0#16
  pc := Config.resetPc
  sp := 0
  stack := Vector.replicate 16 0#16
  dt := 0#8
  st := 0#8
  keys := Vector.replicate 16 false
  fb := Vector.replicate 32 0#64
  halt := false
  faultKind := .none
  faultAddr := 0#16
  memory := []
  font := conventionalFont
  randomDraws := 0

end Sys2Proof.Machine
end

