-- ==== Sys2Proof/Syntax.lean ====
section
/-! DEFINITION. The instructions (30_encoding.md R102): one constructor per row of spec/opcode_table.json, operands as
30_encoding.md R91 to R93 give them. Bits the decoder ignores (R99) are no operands. -/

namespace Sys2Proof

/-- A register index, one of 16 (30_encoding.md R93: "no register index is out of range"). -/
abbrev RegIdx := Fin 16

/-- The 34 instructions of 30_encoding.md R102, in the table's order. `x` and `y` are register indexes, `nn` an 8-bit
immediate, `nnn` a 12-bit address, `n` a number of sprite rows. -/
inductive Instr where
  /-- 00E0, clear display (R190). -/
  | cls
  /-- 00EE, return from subroutine (R120). -/
  | ret
  /-- 1nnn, jump (R121). -/
  | jp (nnn : BitVec 12)
  /-- 2nnn, call subroutine (R122). -/
  | call (nnn : BitVec 12)
  /-- 3xnn, skip if register equals immediate (R123). -/
  | seImm (x : RegIdx) (nn : Byte)
  /-- 4xnn, skip if register differs from immediate (R124). -/
  | sneImm (x : RegIdx) (nn : Byte)
  /-- 5xy0, skip if registers equal (R125). -/
  | seReg (x y : RegIdx)
  /-- 6xnn, load immediate (R140). -/
  | ldImm (x : RegIdx) (nn : Byte)
  /-- 7xnn, add immediate, no flag change (R141). -/
  | addImm (x : RegIdx) (nn : Byte)
  /-- 8xy0, assign (R142). -/
  | ldReg (x y : RegIdx)
  /-- 8xy1, bitwise OR (R143). -/
  | orReg (x y : RegIdx)
  /-- 8xy2, bitwise AND (R144). -/
  | andReg (x y : RegIdx)
  /-- 8xy3, bitwise XOR (R145). -/
  | xorReg (x y : RegIdx)
  /-- 8xy4, add with carry flag (R146). -/
  | addReg (x y : RegIdx)
  /-- 8xy5, subtract with borrow flag (R147). -/
  | sub (x y : RegIdx)
  /-- 8xy6, shift right; `y` is decoded and not used (R148). -/
  | shr (x y : RegIdx)
  /-- 8xy7, reverse subtract with borrow flag (R149). -/
  | subn (x y : RegIdx)
  /-- 8xyE, shift left; `y` is decoded and not used (R150). -/
  | shl (x y : RegIdx)
  /-- 9xy0, skip if registers differ (R126). -/
  | sneReg (x y : RegIdx)
  /-- Annn, load index with address (R170). -/
  | ldI (nnn : BitVec 12)
  /-- Bnnn, jump with offset V0 (R127). -/
  | jpV0 (nnn : BitVec 12)
  /-- Cxnn, random mask (R151). -/
  | rnd (x : RegIdx) (nn : Byte)
  /-- Dxyn, draw sprite of `n` rows (R191). -/
  | drw (x y : RegIdx) (n : Nat)
  /-- Ex9E, skip if key pressed (R200). -/
  | skp (x : RegIdx)
  /-- ExA1, skip if key not pressed (R201). -/
  | sknp (x : RegIdx)
  /-- Fx07, read the delay timer (R205). -/
  | ldVxDt (x : RegIdx)
  /-- Fx0A, block until key press (R203). -/
  | ldVxK (x : RegIdx)
  /-- Fx15, set the delay timer (R206). -/
  | ldDtVx (x : RegIdx)
  /-- Fx18, set the sound timer (R207). -/
  | ldStVx (x : RegIdx)
  /-- Fx1E, add to index (R171). -/
  | addI (x : RegIdx)
  /-- Fx29, font glyph address (R172). -/
  | ldF (x : RegIdx)
  /-- Fx33, decimal digit decomposition (R173). -/
  | ldB (x : RegIdx)
  /-- Fx55, store registers V0 to Vx to memory (R174). -/
  | stRegs (x : RegIdx)
  /-- Fx65, load registers V0 to Vx from memory (R175). -/
  | ldRegs (x : RegIdx)
deriving DecidableEq, Repr

end Sys2Proof
end

