-- ==== Sys2Proof/Machine/Ops.lean ====
section
/-! DEFINITION. The named operations over the state: registers, `pc`, memory, call stack, keypad, random source, and taking a
fatal fault. There is no return from a fault (60_exceptions.md R233). -/

namespace Sys2Proof.Machine

/-- What a meaning answers. -/
abbrev Result := Host.Outcome State Fault Refusal

/-! ### General registers (10_state.md R23, R24) -/

/-- `V[x]`. -/
def State.reg (s : State) (x : RegIdx) : Byte := s.v[x]

/-- `V[x] <- b`. -/
def State.setReg (s : State) (x : RegIdx) (b : Byte) : State := { s with v := s.v.set x.val b }

/-- The index of VF, the flag register (R24). -/
abbrev flagReg : RegIdx := 15

/-- Write a flag into VF (R36). -/
def State.setFlag (s : State) (b : Byte) : State := s.setReg flagReg b

/-! ### Program counter (10_state.md R26, 00_scope.md R15) -/

/-- `pc <- pc + 2`, the default advance. -/
def State.advance (s : State) : State := { s with pc := s.pc + 2#16 }

/-- The conditional skip: `pc <- pc + 4` when the condition holds, else `pc <- pc + 2` (R26). -/
def State.skipIf (s : State) (c : Bool) : State := { s with pc := if c then s.pc + 4#16 else s.pc + 2#16 }

/-- A control transfer: the new value is written whatever it is (40_control_flow.md R128). -/
def State.jump (s : State) (target : Word) : State := { s with pc := target }

/-! ### Memory (20_memory.md R62, R63) -/

/-- `MemRead(a, 1)`. -/
def State.readByte (s : State) (a : Nat) : Byte := Memory.read s.font s.memory a

/-- `MemRead(a + k, 1)` for `k = 0` to `n - 1`. -/
def State.loadBytes (s : State) (a n : Nat) : List Byte := Memory.readBytes s.font s.memory a n

/-- `MemWrite(a + k, 1, bytes[k])` for every `k`. -/
def State.storeBytes (s : State) (a : Nat) (bytes : List Byte) : State :=
  { s with memory := Memory.writeBytes s.font a bytes s.memory }

/-- The check of a whole range before any access (R63): no byte is touched, or the highest address `base + count - 1` is at
most 0xFFF. The sum is on unbounded integers (R62). -/
def rangeFits (base : Word) (count : Nat) : Bool :=
  decide (count = 0) || decide (base.toNat + count ≤ 0x1000)

/-! ### Taking a fatal fault (60_exceptions.md R226) -/

/-- The FAULT_KIND of a fault (R220). -/
def Fault.kind : Fault → FaultKind
  | .outOfBounds _ => .outOfBounds
  | .stackOverflow => .stackOverflow
  | .stackUnderflow => .stackUnderflow

/-- The FAULT_ADDR of a fault: the offending address for OutOfBounds, else 0 (R226). -/
def Fault.address : Fault → Word
  | .outOfBounds a => a
  | .stackOverflow => 0#16
  | .stackUnderflow => 0#16

/-- The numbers of FAULT_KIND (10_state.md R34, D11, log 7). -/
def FaultKind.code : FaultKind → BitVec 2
  | .none => 0#2
  | .outOfBounds => 1#2
  | .stackOverflow => 2#2
  | .stackUnderflow => 3#2

/-- The lowest address above 0xFFF of a range that starts at `base`: `max(base, 0x1000)` (R229, D9, log 15). -/
def offendingAddress (base : Word) : Word := if base.toNat < 0x1000 then 0x1000#16 else base

/-- `raise <Fault>(info)`: HALT, FAULT_KIND and FAULT_ADDR are written and nothing else; `pc` stays (R226). -/
def takeFault (f : Fault) (s : State) : State :=
  { s with halt := true, faultKind := f.kind, faultAddr := f.address }

/-- Run an effect that touches `count` bytes from `base`, or raise OutOfBounds with nothing written (R63, R176). -/
def withAccess (base : Word) (count : Nat) (s : State) (effect : State) : Result :=
  if rangeFits base count then .next effect else .next (takeFault (.outOfBounds (offendingAddress base)) s)

/-! ### Framebuffer (10_state.md R33) -/

/-- `FB[x, y]`, true = set. -/
def State.pixel (s : State) (x : Fin 64) (y : Fin 32) : Bool := Framebuffer.cell s.fb x y

/-! ### Call stack (10_state.md R30) -/

/-- Push a return address, if fewer than 16 are pushed. -/
def State.push (s : State) (w : Word) : Option State :=
  if h : s.sp.val < 16 then some { s with stack := s.stack.set s.sp.val w, sp := ⟨s.sp.val + 1, by omega⟩ } else none

/-- Pop the latest return address, if one is pushed. The entry keeps its value (R30). -/
def State.pop (s : State) : Option (Word × State) :=
  if h : 0 < s.sp.val then some (s.stack[s.sp.val - 1], { s with sp := ⟨s.sp.val - 1, by omega⟩ }) else none

/-! ### Keypad (10_state.md R32) -/

/-- `KEY[k]`. -/
def State.key (s : State) (k : Fin 16) : Bool := s.keys[k]

/-- The lowest pressed key, if any is pressed (44_keypad_timers.md R203, D6, log 12). -/
def State.lowestKey (s : State) : Option (Fin 16) := (List.finRange 16).find? s.key

/-! ### Random source (41_alu.md R166) -/

/-- The byte the random source supplies for this execution: a free value, a new one for each draw (log 2). -/
def State.randomByte (s : State) : Byte := Config.randomByte s.randomDraws

/-- The source has been sampled once more. -/
def State.sampled (s : State) : State := { s with randomDraws := s.randomDraws + 1 }

end Sys2Proof.Machine
end

