-- ==== Sys2Proof/Machine/Flags.lean ====
section
/-! DEFINITION. The results and the flags of the ALU (41_alu.md R160 to R164; 10_state.md R36). A flag is the byte 0 or 1. -/

namespace Sys2Proof.Machine

/-- The value 0 or 1 that VF receives (10_state.md R36). -/
def flagByte (c : Bool) : Byte := if c then 1#8 else 0#8

/-- Carry of `a + b`: the untruncated sum exceeds 255 (R161). -/
def carryFlag (a b : Byte) : Byte := flagByte (decide (a.toNat + b.toNat > 255))

/-- Complement of the borrow of `a - b`: 0 iff `b > a` (R162). -/
def notBorrowFlag (a b : Byte) : Byte := flagByte (!decide (b.toNat > a.toNat))

/-- The bit a right shift shifts out: old bit 0 (R163). -/
def shiftedOutRight (a : Byte) : Byte := flagByte (a.getLsbD 0)

/-- The bit a left shift shifts out: old bit 7, "not bit 15" (R163). -/
def shiftedOutLeft (a : Byte) : Byte := flagByte (a.getLsbD 7)

/-- Collision: some cell went from set to clear (43_display.md R191). -/
def collisionFlag (c : Bool) : Byte := flagByte c

end Sys2Proof.Machine
end

