-- ==== Sys2Proof/Machine/Operands.lean ====
section
/-! DEFINITION. The operand forms: immediates (30_encoding.md R93), the key index (44_keypad_timers.md R202), the glyph address
(42_index_memory.md R172), the decimal digits (R173), the register ranges of Fx55 and Fx65 (R174, R175), the sprite rows of Dxyn
(43_display.md R191). -/

namespace Sys2Proof.Machine

/-- `zext_16(nnn)` (30_encoding.md R93). -/
def address (nnn : BitVec 12) : Word := nnn.setWidth 16

/-- `zext_16(b)` of a register or an 8-bit value (00_scope.md R10). -/
def widen (b : Byte) : Word := b.setWidth 16

/-- The key a register names: its low 4 bits (44_keypad_timers.md R202, D7, log 13). -/
def keyIndex (b : Byte) : Fin 16 := (b.extractLsb' 0 4).toFin

/-- `0x0050 + 5 * zext_16(vx)`, the whole register, no mask (42_index_memory.md R172, D8, log 14). -/
def glyphAddress (b : Byte) : Word := 0x0050#16 + 5#16 * widen b

/-- The hundreds, tens and ones digit of an 8-bit value, each as a byte (42_index_memory.md R173). -/
def decimalDigits (b : Byte) : List Byte := [b / 100#8, (b / 10#8) % 10#8, b % 10#8]

/-- V0 to Vx, in order (42_index_memory.md R174). -/
def State.regsUpTo (s : State) (x : RegIdx) : List Byte := s.v.toList.take (x.val + 1)

/-- `V[k] <- bytes[k]` for `k = 0` to `x`; registers above `x` keep their value (42_index_memory.md R175). -/
def State.setRegsUpTo (s : State) (x : RegIdx) (bytes : List Byte) : State :=
  { s with v := Vector.ofFn fun k : Fin 16 => if k ≤ x then bytes.getD k.val 0#8 else s.v[k] }

/-- The address `I`, base of every data access (42_index_memory.md R176). -/
def State.base (s : State) : Nat := s.i.toNat

end Sys2Proof.Machine
end

