-- ==== Sys2Proof/Machine/Alu.lean ====
section
/-! DEFINITION. Register and ALU instructions (41_alu.md R140 to R151). Operands are read from the state at the start; the writes
then happen in the order the rule lists them (00_scope.md R13), which fixes the result when `x` is 15 (R165, D3, log 8). None can
fault, none touches memory, each ends with `pc <- pc + 2`. -/

namespace Sys2Proof.Machine

/-- 6xnn (R140). -/
def execLdImm (x : RegIdx) (nn : Byte) (s : State) : Result := .next (s.setReg x nn).advance

/-- 7xnn (R141): the carry is discarded. -/
def execAddImm (x : RegIdx) (nn : Byte) (s : State) : Result := .next (s.setReg x (s.reg x + nn)).advance

/-- 8xy0 (R142). -/
def execLdReg (x y : RegIdx) (s : State) : Result := .next (s.setReg x (s.reg y)).advance

/-- 8xy1 (R143). -/
def execOrReg (x y : RegIdx) (s : State) : Result := .next (s.setReg x (s.reg x ||| s.reg y)).advance

/-- 8xy2 (R144). -/
def execAndReg (x y : RegIdx) (s : State) : Result := .next (s.setReg x (s.reg x &&& s.reg y)).advance

/-- 8xy3 (R145). -/
def execXorReg (x y : RegIdx) (s : State) : Result := .next (s.setReg x (s.reg x ^^^ s.reg y)).advance

/-- 8xy4 (R146): result first, flag second. -/
def execAddReg (x y : RegIdx) (s : State) : Result :=
  .next ((s.setReg x (s.reg x + s.reg y)).setFlag (carryFlag (s.reg x) (s.reg y))).advance

/-- 8xy5 (R147): result first, flag second. -/
def execSub (x y : RegIdx) (s : State) : Result :=
  .next ((s.setReg x (s.reg x - s.reg y)).setFlag (notBorrowFlag (s.reg x) (s.reg y))).advance

/-- 8xy6 (R148): flag first, result second; Vy is neither read nor written (C10, log 29). -/
def execShr (x _y : RegIdx) (s : State) : Result :=
  .next ((s.setFlag (shiftedOutRight (s.reg x))).setReg x (s.reg x >>> 1)).advance

/-- 8xy7 (R149): result first, flag second. -/
def execSubn (x y : RegIdx) (s : State) : Result :=
  .next ((s.setReg x (s.reg y - s.reg x)).setFlag (notBorrowFlag (s.reg y) (s.reg x))).advance

/-- 8xyE (R150): flag first, result second; Vy is neither read nor written (C10, log 29). -/
def execShl (x _y : RegIdx) (s : State) : Result :=
  .next ((s.setFlag (shiftedOutLeft (s.reg x))).setReg x (s.reg x <<< 1)).advance

/-- Cxnn (R151): the sample of the random source and the immediate (R166, log 2). -/
def execRnd (x : RegIdx) (nn : Byte) (s : State) : Result := .next (s.sampled.setReg x (s.randomByte &&& nn)).advance

end Sys2Proof.Machine
end

