-- ==== Sys2Proof/Machine/Control.lean ====
section
/-! DEFINITION. Control transfer (40_control_flow.md R120 to R127). No target is checked (R128). -/

namespace Sys2Proof.Machine

/-- 00EE (R120): the popped address already points past the call. -/
def execRet (s : State) : Result :=
  match s.pop with
  | none => .next (takeFault .stackUnderflow s)
  | some (target, t) => .next (t.jump target)

/-- 1nnn (R121). -/
def execJp (nnn : BitVec 12) (s : State) : Result := .next (s.jump (address nnn))

/-- 2nnn (R122). -/
def execCall (nnn : BitVec 12) (s : State) : Result :=
  match s.push (s.pc + 2#16) with
  | none => .next (takeFault .stackOverflow s)
  | some t => .next (t.jump (address nnn))

/-- 3xnn (R123). -/
def execSeImm (x : RegIdx) (nn : Byte) (s : State) : Result := .next (s.skipIf (s.reg x == nn))

/-- 4xnn (R124). -/
def execSneImm (x : RegIdx) (nn : Byte) (s : State) : Result := .next (s.skipIf (s.reg x != nn))

/-- 5xy0 (R125). -/
def execSeReg (x y : RegIdx) (s : State) : Result := .next (s.skipIf (s.reg x == s.reg y))

/-- 9xy0 (R126). -/
def execSneReg (x y : RegIdx) (s : State) : Result := .next (s.skipIf (s.reg x != s.reg y))

/-- Bnnn (R127): `nnn + V0`; the old `pc` takes no part (C3, log 29). -/
def execJpV0 (nnn : BitVec 12) (s : State) : Result := .next (s.jump (address nnn + widen (s.reg 0)))

end Sys2Proof.Machine
end

