-- ==== Sys2Proof/Machine/Display.lean ====
section
/-! DEFINITION. Display instructions (43_display.md R190 to R192). -/

namespace Sys2Proof.Machine

/-- 00E0 (R190). -/
def execCls (s : State) : Result := .next { s with fb := Framebuffer.clear }.advance

/-- Dxyn (R191): the rows are read, the pixels toggled, then VF is written once; no row means no access and no fault (D24,
log 10). -/
def execDrw (x y : RegIdx) (n : Nat) (s : State) : Result :=
  let d := drawSprite (s.reg x) (s.reg y) (s.loadBytes s.base n) s.fb
  withAccess s.i n s ({ s with fb := d.fb }.setFlag (collisionFlag d.collision)).advance

end Sys2Proof.Machine
end

