-- ==== Sys2Proof/Machine/Index.lean ====
section
/-! DEFINITION. Index register and memory instructions (42_index_memory.md R170 to R176). None changes I as an address register;
the whole range is checked before anything is written (R176). -/

namespace Sys2Proof.Machine

/-- Annn (R170). -/
def execLdI (nnn : BitVec 12) (s : State) : Result := .next { s with i := address nnn }.advance

/-- Fx1E (R171): a 16-bit add, VF not written (D5, log 11). -/
def execAddI (x : RegIdx) (s : State) : Result := .next { s with i := s.i + widen (s.reg x) }.advance

/-- Fx29 (R172). -/
def execLdF (x : RegIdx) (s : State) : Result := .next { s with i := glyphAddress (s.reg x) }.advance

/-- Fx33 (R173). -/
def execLdB (x : RegIdx) (s : State) : Result :=
  withAccess s.i 3 s (s.storeBytes s.base (decimalDigits (s.reg x))).advance

/-- Fx55 (R174). -/
def execStRegs (x : RegIdx) (s : State) : Result :=
  withAccess s.i (x.val + 1) s (s.storeBytes s.base (s.regsUpTo x)).advance

/-- Fx65 (R175): every byte is read before a register is written. -/
def execLdRegs (x : RegIdx) (s : State) : Result :=
  withAccess s.i (x.val + 1) s (s.setRegsUpTo x (s.loadBytes s.base (x.val + 1))).advance

end Sys2Proof.Machine
end

