-- ==== Sys2Proof/Machine/Keypad.lean ====
section
/-! DEFINITION. Keypad and timer instructions (44_keypad_timers.md R200 to R207). None can fault, none touches memory. -/

namespace Sys2Proof.Machine

/-- Ex9E (R200). -/
def execSkp (x : RegIdx) (s : State) : Result := .next (s.skipIf (s.key (keyIndex (s.reg x))))

/-- ExA1 (R201). -/
def execSknp (x : RegIdx) (s : State) : Result := .next (s.skipIf (!s.key (keyIndex (s.reg x))))

/-- Fx0A (R203): with no key pressed nothing changes and `pc` stays; else the lowest pressed key (D6, log 12). -/
def execLdVxK (x : RegIdx) (s : State) : Result :=
  match s.lowestKey with
  | none => .next s
  | some k => .next (s.setReg x (BitVec.ofNat 8 k.val)).advance

/-- Fx07 (R205). -/
def execLdVxDt (x : RegIdx) (s : State) : Result := .next (s.setReg x s.dt).advance

/-- Fx15 (R206). -/
def execLdDtVx (x : RegIdx) (s : State) : Result := .next { s with dt := s.reg x }.advance

/-- Fx18 (R207). -/
def execLdStVx (x : RegIdx) (s : State) : Result := .next { s with st := s.reg x }.advance

end Sys2Proof.Machine
end

