-- ==== Sys2Proof/Decode.lean ====
section
/-! DEFINITION. The decoder (30_encoding.md R90 to R101), total on every word and on every list of bytes, and after it the
encoder, written from the same encoding table (R102), and that table's masks, match values and fields. -/

namespace Sys2Proof

/-! ### The fields of an instruction word (R91) -/

/-- `group = iw[15:12]`, the first-level dispatch selector. -/
def Field.group (iw : Word) : BitVec 4 := iw.extractLsb' 12 4

/-- `x = iw[11:8]`, a register index. -/
def Field.x (iw : Word) : RegIdx := (iw.extractLsb' 8 4).toFin

/-- `y = iw[7:4]`, a register index. -/
def Field.y (iw : Word) : RegIdx := (iw.extractLsb' 4 4).toFin

/-- `n = iw[3:0]`, the sprite height of Dxyn or the second-level selector of group 8. -/
def Field.n (iw : Word) : BitVec 4 := iw.extractLsb' 0 4

/-- `nn = iw[7:0]`, the 8-bit immediate or the second-level selector of groups 0, E and F. -/
def Field.nn (iw : Word) : Byte := iw.extractLsb' 0 8

/-- `nnn = iw[11:0]`, the 12-bit address. -/
def Field.nnn (iw : Word) : BitVec 12 := iw.extractLsb' 0 12

/-! ### Dispatch (R94 to R98) -/

/-- What the decoder makes of a word: one instruction, or the unknown-opcode condition of R100 with the word it met. -/
inductive Decoded where
  | instr (i : Instr)
  | unknownOpcode (iw : Word)
deriving DecidableEq, Repr

/-- Group 0x0, second level on the low byte; the second nibble is not looked at (R95, R99). -/
def decodeGroup0 (iw : Word) : Decoded :=
  match Field.nn iw with
  | 0xE0#8 => .instr .cls
  | 0xEE#8 => .instr .ret
  | _ => .unknownOpcode iw

/-- Group 0x8, second level on the low nibble (R96). -/
def decodeGroup8 (iw : Word) : Decoded :=
  match Field.n iw with
  | 0x0#4 => .instr (.ldReg (Field.x iw) (Field.y iw))
  | 0x1#4 => .instr (.orReg (Field.x iw) (Field.y iw))
  | 0x2#4 => .instr (.andReg (Field.x iw) (Field.y iw))
  | 0x3#4 => .instr (.xorReg (Field.x iw) (Field.y iw))
  | 0x4#4 => .instr (.addReg (Field.x iw) (Field.y iw))
  | 0x5#4 => .instr (.sub (Field.x iw) (Field.y iw))
  | 0x6#4 => .instr (.shr (Field.x iw) (Field.y iw))
  | 0x7#4 => .instr (.subn (Field.x iw) (Field.y iw))
  | 0xE#4 => .instr (.shl (Field.x iw) (Field.y iw))
  | _ => .unknownOpcode iw

/-- Group 0xE, second level on the low byte (R97). -/
def decodeGroupE (iw : Word) : Decoded :=
  match Field.nn iw with
  | 0x9E#8 => .instr (.skp (Field.x iw))
  | 0xA1#8 => .instr (.sknp (Field.x iw))
  | _ => .unknownOpcode iw

/-- Group 0xF, second level on the low byte (R98). -/
def decodeGroupF (iw : Word) : Decoded :=
  match Field.nn iw with
  | 0x07#8 => .instr (.ldVxDt (Field.x iw))
  | 0x0A#8 => .instr (.ldVxK (Field.x iw))
  | 0x15#8 => .instr (.ldDtVx (Field.x iw))
  | 0x18#8 => .instr (.ldStVx (Field.x iw))
  | 0x1E#8 => .instr (.addI (Field.x iw))
  | 0x29#8 => .instr (.ldF (Field.x iw))
  | 0x33#8 => .instr (.ldB (Field.x iw))
  | 0x55#8 => .instr (.stRegs (Field.x iw))
  | 0x65#8 => .instr (.ldRegs (Field.x iw))
  | _ => .unknownOpcode iw

/-- The two-level dispatch (R94): the top nibble first, a second level in groups 0, 8, E and F only; the low nibble of groups
5 and 9 takes part in no decision (R99, D14, log 16). -/
def decode (iw : Word) : Decoded :=
  match Field.group iw with
  | 0x0#4 => decodeGroup0 iw
  | 0x1#4 => .instr (.jp (Field.nnn iw))
  | 0x2#4 => .instr (.call (Field.nnn iw))
  | 0x3#4 => .instr (.seImm (Field.x iw) (Field.nn iw))
  | 0x4#4 => .instr (.sneImm (Field.x iw) (Field.nn iw))
  | 0x5#4 => .instr (.seReg (Field.x iw) (Field.y iw))
  | 0x6#4 => .instr (.ldImm (Field.x iw) (Field.nn iw))
  | 0x7#4 => .instr (.addImm (Field.x iw) (Field.nn iw))
  | 0x8#4 => decodeGroup8 iw
  | 0x9#4 => .instr (.sneReg (Field.x iw) (Field.y iw))
  | 0xA#4 => .instr (.ldI (Field.nnn iw))
  | 0xB#4 => .instr (.jpV0 (Field.nnn iw))
  | 0xC#4 => .instr (.rnd (Field.x iw) (Field.nn iw))
  | 0xD#4 => .instr (.drw (Field.x iw) (Field.y iw) (Field.n iw).toNat)
  | 0xE#4 => decodeGroupE iw
  | 0xF#4 => decodeGroupF iw
  | _ => .unknownOpcode iw

/-! ### Bytes (R67, R90) -/

/-- The instruction word of two fetched bytes: the byte at the lower address is the more significant half (R67). -/
def wordOfBytes (b0 b1 : Byte) : Word := b0 ++ b1

/-- The two bytes of a word as memory holds them, the lower address first (R67). -/
def bytesOfWord (iw : Word) : List Byte := [iw.extractLsb' 8 8, iw.extractLsb' 0 8]

/-- What the decoder makes of a list of bytes, with the bytes left over. -/
inductive DecodedBytes where
  | instr (i : Instr) (rest : List Byte)
  | unknownOpcode (iw : Word) (rest : List Byte)
  | truncated (bytes : List Byte)
deriving DecidableEq, Repr

/-- Decode the first instruction of a list of bytes; every instruction is two bytes long (R90). -/
def decodeBytes : List Byte → DecodedBytes
  | b0 :: b1 :: rest =>
    match decode (wordOfBytes b0 b1) with
    | .instr i => .instr i rest
    | .unknownOpcode iw => .unknownOpcode iw rest
  | [] => .truncated []
  | [b] => .truncated [b]

/-- The instruction the decoder reads from an instruction whose bits are `w`, numbered as spec/opcode_table.json numbers
them: every instruction is one 16-bit word, laid out high byte first (R67). Bits above `nbits` are 0. -/
def decodeTableWord (nbits w : Nat) : Option Instr :=
  match decodeBytes (bytesOfWord (BitVec.ofNat 16 (w % 2 ^ nbits))) with
  | .instr i _ => some i
  | .unknownOpcode _ _ => none
  | .truncated _ => none

/-! ### The encoder (R92, R102) -/

/-- A register index as its 4-bit field. -/
def nibble (x : RegIdx) : BitVec 4 := BitVec.ofFin x

/-- Format NNN: `group ++ nnn`. -/
def formatNNN (g : BitVec 4) (nnn : BitVec 12) : Word := g ++ nnn

/-- Format XNN: `group ++ x ++ nn`; format XKK has the selector in the place of `nn`. -/
def formatXNN (g : BitVec 4) (x : RegIdx) (nn : Byte) : Word := g ++ (nibble x ++ nn)

/-- Formats XY (low nibble canonically 0), XYF (low nibble the selector) and XYN (low nibble the immediate). -/
def formatXYN (g : BitVec 4) (x y : RegIdx) (n : BitVec 4) : Word := g ++ (nibble x ++ (nibble y ++ n))

/-- The canonical word of an instruction: the table's match bits, the operand fields, ignored bits 0 (R99, R102). -/
def encode : Instr → Word
  | .cls => 0x00E0#16
  | .ret => 0x00EE#16
  | .jp nnn => formatNNN 0x1#4 nnn
  | .call nnn => formatNNN 0x2#4 nnn
  | .seImm x nn => formatXNN 0x3#4 x nn
  | .sneImm x nn => formatXNN 0x4#4 x nn
  | .seReg x y => formatXYN 0x5#4 x y 0x0#4
  | .ldImm x nn => formatXNN 0x6#4 x nn
  | .addImm x nn => formatXNN 0x7#4 x nn
  | .ldReg x y => formatXYN 0x8#4 x y 0x0#4
  | .orReg x y => formatXYN 0x8#4 x y 0x1#4
  | .andReg x y => formatXYN 0x8#4 x y 0x2#4
  | .xorReg x y => formatXYN 0x8#4 x y 0x3#4
  | .addReg x y => formatXYN 0x8#4 x y 0x4#4
  | .sub x y => formatXYN 0x8#4 x y 0x5#4
  | .shr x y => formatXYN 0x8#4 x y 0x6#4
  | .subn x y => formatXYN 0x8#4 x y 0x7#4
  | .shl x y => formatXYN 0x8#4 x y 0xE#4
  | .sneReg x y => formatXYN 0x9#4 x y 0x0#4
  | .ldI nnn => formatNNN 0xA#4 nnn
  | .jpV0 nnn => formatNNN 0xB#4 nnn
  | .rnd x nn => formatXNN 0xC#4 x nn
  | .drw x y n => formatXYN 0xD#4 x y (BitVec.ofNat 4 n)
  | .skp x => formatXNN 0xE#4 x 0x9E#8
  | .sknp x => formatXNN 0xE#4 x 0xA1#8
  | .ldVxDt x => formatXNN 0xF#4 x 0x07#8
  | .ldVxK x => formatXNN 0xF#4 x 0x0A#8
  | .ldDtVx x => formatXNN 0xF#4 x 0x15#8
  | .ldStVx x => formatXNN 0xF#4 x 0x18#8
  | .addI x => formatXNN 0xF#4 x 0x1E#8
  | .ldF x => formatXNN 0xF#4 x 0x29#8
  | .ldB x => formatXNN 0xF#4 x 0x33#8
  | .stRegs x => formatXNN 0xF#4 x 0x55#8
  | .ldRegs x => formatXNN 0xF#4 x 0x65#8

/-- The bytes of an instruction as memory holds them. -/
def encodeBytes (i : Instr) : List Byte := bytesOfWord (encode i)

/-! ### The opcode table (R102) -/

/-- The table's mask of the instruction's row: the bits the row fixes (R102). -/
def Instr.mask : Instr → Word
  | .cls | .ret => 0xF0FF#16
  | .jp _ | .call _ | .ldI _ | .jpV0 _ => 0xF000#16
  | .seImm _ _ | .sneImm _ _ | .ldImm _ _ | .addImm _ _ | .rnd _ _ => 0xF000#16
  | .seReg _ _ | .sneReg _ _ => 0xF000#16
  | .drw _ _ _ => 0xF000#16
  | .ldReg _ _ | .orReg _ _ | .andReg _ _ | .xorReg _ _ | .addReg _ _ | .sub _ _ | .shr _ _ | .subn _ _ | .shl _ _ => 0xF00F#16
  | .skp _ | .sknp _ | .ldVxDt _ | .ldVxK _ | .ldDtVx _ | .ldStVx _ | .addI _ | .ldF _ | .ldB _ | .stRegs _ | .ldRegs _ => 0xF0FF#16

/-- The table's match value of the instruction's row (R102). -/
def Instr.matchBits : Instr → Word
  | .cls => 0x00E0#16
  | .ret => 0x00EE#16
  | .jp _ => 0x1000#16
  | .call _ => 0x2000#16
  | .seImm _ _ => 0x3000#16
  | .sneImm _ _ => 0x4000#16
  | .seReg _ _ => 0x5000#16
  | .ldImm _ _ => 0x6000#16
  | .addImm _ _ => 0x7000#16
  | .ldReg _ _ => 0x8000#16
  | .orReg _ _ => 0x8001#16
  | .andReg _ _ => 0x8002#16
  | .xorReg _ _ => 0x8003#16
  | .addReg _ _ => 0x8004#16
  | .sub _ _ => 0x8005#16
  | .shr _ _ => 0x8006#16
  | .subn _ _ => 0x8007#16
  | .shl _ _ => 0x800E#16
  | .sneReg _ _ => 0x9000#16
  | .ldI _ => 0xA000#16
  | .jpV0 _ => 0xB000#16
  | .rnd _ _ => 0xC000#16
  | .drw _ _ _ => 0xD000#16
  | .skp _ => 0xE09E#16
  | .sknp _ => 0xE0A1#16
  | .ldVxDt _ => 0xF007#16
  | .ldVxK _ => 0xF00A#16
  | .ldDtVx _ => 0xF015#16
  | .ldStVx _ => 0xF018#16
  | .addI _ => 0xF01E#16
  | .ldF _ => 0xF029#16
  | .ldB _ => 0xF033#16
  | .stRegs _ => 0xF055#16
  | .ldRegs _ => 0xF065#16

/-- The same instruction with its operands read from the word's fields (R91, R92). -/
def Instr.withFields (iw : Word) : Instr → Instr
  | .cls => .cls
  | .ret => .ret
  | .jp _ => .jp (Field.nnn iw)
  | .call _ => .call (Field.nnn iw)
  | .seImm _ _ => .seImm (Field.x iw) (Field.nn iw)
  | .sneImm _ _ => .sneImm (Field.x iw) (Field.nn iw)
  | .seReg _ _ => .seReg (Field.x iw) (Field.y iw)
  | .ldImm _ _ => .ldImm (Field.x iw) (Field.nn iw)
  | .addImm _ _ => .addImm (Field.x iw) (Field.nn iw)
  | .ldReg _ _ => .ldReg (Field.x iw) (Field.y iw)
  | .orReg _ _ => .orReg (Field.x iw) (Field.y iw)
  | .andReg _ _ => .andReg (Field.x iw) (Field.y iw)
  | .xorReg _ _ => .xorReg (Field.x iw) (Field.y iw)
  | .addReg _ _ => .addReg (Field.x iw) (Field.y iw)
  | .sub _ _ => .sub (Field.x iw) (Field.y iw)
  | .shr _ _ => .shr (Field.x iw) (Field.y iw)
  | .subn _ _ => .subn (Field.x iw) (Field.y iw)
  | .shl _ _ => .shl (Field.x iw) (Field.y iw)
  | .sneReg _ _ => .sneReg (Field.x iw) (Field.y iw)
  | .ldI _ => .ldI (Field.nnn iw)
  | .jpV0 _ => .jpV0 (Field.nnn iw)
  | .rnd _ _ => .rnd (Field.x iw) (Field.nn iw)
  | .drw _ _ _ => .drw (Field.x iw) (Field.y iw) (Field.n iw).toNat
  | .skp _ => .skp (Field.x iw)
  | .sknp _ => .sknp (Field.x iw)
  | .ldVxDt _ => .ldVxDt (Field.x iw)
  | .ldVxK _ => .ldVxK (Field.x iw)
  | .ldDtVx _ => .ldDtVx (Field.x iw)
  | .ldStVx _ => .ldStVx (Field.x iw)
  | .addI _ => .addI (Field.x iw)
  | .ldF _ => .ldF (Field.x iw)
  | .ldB _ => .ldB (Field.x iw)
  | .stRegs _ => .stRegs (Field.x iw)
  | .ldRegs _ => .ldRegs (Field.x iw)

end Sys2Proof
end

