-- ==== Sys2Proof/Machine/Fetch.lean ====
section
/-! DEFINITION. The fetch (20_memory.md R68), what a step does when the fetch fails, when the word is unknown
(60_exceptions.md R224) and in the halted state (R227), and placing a word where the next step fetches it. -/

namespace Sys2Proof.Machine

/-- The fetch range check: `pc <= 0xFFE` (R68). -/
def State.canFetch (s : State) : Bool := decide (s.pc.toNat ≤ 0xFFE)

/-- The word at `pc`, high byte at the lower address; it reads two bytes and changes nothing (R67, R68). -/
def State.fetchWord (s : State) : Word := wordOfBytes (s.readByte s.pc.toNat) (s.readByte (s.pc.toNat + 1))

/-- The fetch: none when `pc > 0xFFE`, where neither byte is read (R68). -/
def State.fetch (s : State) : Option Word := if s.canFetch then some s.fetchWord else none

/-- `raise OutOfBounds(max(pc, 0x1000))` of the fetch (R68, R221a). -/
def fetchFault (s : State) : Result := .next (takeFault (.outOfBounds (offendingAddress s.pc)) s)

/-- The unknown-opcode rule: nothing changes but `pc <- pc + 2` (R224); the report is in `stepOutput`. -/
def unknownOpcode (s : State) : Result := .next s.advance

/-- A step in the halted state changes nothing (R227). -/
def haltedStep (s : State) : Result := .next s

/-- Make the next step fetch at `pc`: a halted machine has its fault status cleared as `reset` clears it, and a `pc` no fetch
can use becomes the entry point; any other state stays as it is (log 21). -/
def State.readyToFetch (s : State) : State :=
  let t := if s.halt then { s with halt := false, faultKind := .none, faultAddr := 0#16 } else s
  if t.canFetch then t else { t with pc := Config.resetPc }

/-- The state with the table word `w` of `nbits` bits stored where the next step fetches (R67; log 21). -/
def State.placeWord (s : State) (nbits w : Nat) : State :=
  let t := s.readyToFetch
  t.storeBytes t.pc.toNat (bytesOfWord (BitVec.ofNat 16 (w % 2 ^ nbits)))

end Sys2Proof.Machine
end

