-- ==== Sys2Proof/Machine/Step.lean ====
section
/-! DEFINITION. One `step` transaction (10_state.md R21), its checks in the order of 60_exceptions.md R230. -/

namespace Sys2Proof.Machine

/-- Halted: nothing; else fetch, decode, and run the instruction's rule or the unknown-opcode rule (R21, R230). -/
def step (s : State) : Host.Outcome State Fault Refusal :=
  if s.halt then haltedStep s
  else
    match s.fetch with
    | none => fetchFault s
    | some iw =>
      match decode iw with
      | .instr i => exec i s
      | .unknownOpcode _ => unknownOpcode s

/-- The state with the table word stored where `step` fetches its next instruction (log 21). -/
def State.withFetchWord (s : State) (nbits w : Nat) : State := s.placeWord nbits w

end Sys2Proof.Machine
end

