-- ==== Sys2Proof/Machine/Output.lean ====
section
/-! DEFINITION. The per-step outputs (10_state.md R28). They are no state: nothing in a later step reads them, so they are a
function of the state in which the step is taken (log 4). -/

namespace Sys2Proof.Machine

/-- What one `step` transaction puts out besides its state change (R28). -/
structure StepOutput where
  /-- The value `step()` returns (43_display.md R193). -/
  displayChanged : Bool
  /-- The unknown-opcode event: the word and its address (60_exceptions.md R224, D12). -/
  unknownOpcode : Option (Word × Word)
  /-- The fault event: FAULT_KIND and FAULT_ADDR (R226). -/
  fault : Option (FaultKind × Word)
  /-- 1 in a step of Fx0A that found no key (44_keypad_timers.md R204). -/
  keyWait : Bool
deriving DecidableEq, Repr

/-- A step with nothing to report. -/
def StepOutput.silent : StepOutput := { displayChanged := false, unknownOpcode := none, fault := none, keyWait := false }

/-- The fault event of a result taken from a machine that was not halted: emitted iff the machine is now halted (R226). -/
def faultEvent : Result → Option (FaultKind × Word)
  | .next t => if t.halt then some (t.faultKind, t.faultAddr) else none
  | .fault _ => none
  | .refused _ => none

/-- Whether the instruction is 00E0 or Dxyn (R193). -/
def Instr.draws : Instr → Bool
  | .cls => true
  | .drw _ _ _ => true
  | .ret | .jp _ | .call _ | .seImm _ _ | .sneImm _ _ | .seReg _ _ | .ldImm _ _ | .addImm _ _ | .ldReg _ _ | .orReg _ _
  | .andReg _ _ | .xorReg _ _ | .addReg _ _ | .sub _ _ | .shr _ _ | .subn _ _ | .shl _ _ | .sneReg _ _ | .ldI _
  | .jpV0 _ | .rnd _ _ | .skp _ | .sknp _ | .ldVxDt _ | .ldVxK _ | .ldDtVx _ | .ldStVx _ | .addI _ | .ldF _ | .ldB _
  | .stRegs _ | .ldRegs _ => false

/-- Whether the instruction is Fx0A (R203). -/
def Instr.waitsForKey : Instr → Bool
  | .ldVxK _ => true
  | .cls | .ret | .jp _ | .call _ | .seImm _ _ | .sneImm _ _ | .seReg _ _ | .ldImm _ _ | .addImm _ _ | .ldReg _ _
  | .orReg _ _ | .andReg _ _ | .xorReg _ _ | .addReg _ _ | .sub _ _ | .shr _ _ | .subn _ _ | .shl _ _ | .sneReg _ _
  | .ldI _ | .jpV0 _ | .rnd _ _ | .drw _ _ _ | .skp _ | .sknp _ | .ldVxDt _ | .ldDtVx _ | .ldStVx _ | .addI _ | .ldF _
  | .ldB _ | .stRegs _ | .ldRegs _ => false

/-- The outputs of executing `i`: `display_changed` iff a draw completes (R193, D13), `key_wait` iff Fx0A finds no key (R204). -/
def instrOutput (i : Instr) (s : State) : StepOutput :=
  { displayChanged := Instr.draws i && (faultEvent (exec i s)).isNone
    unknownOpcode := none
    fault := faultEvent (exec i s)
    keyWait := Instr.waitsForKey i && s.lowestKey.isNone }

/-- The outputs of the step taken in `s` (R28); a halted machine reports nothing (R227). -/
def stepOutput (s : State) : StepOutput :=
  if s.halt then StepOutput.silent
  else
    match s.fetch with
    | none => { StepOutput.silent with fault := faultEvent (fetchFault s) }
    | some iw =>
      match decode iw with
      | .instr i => instrOutput i s
      | .unknownOpcode w => { StepOutput.silent with unknownOpcode := some (w, s.pc) }

end Sys2Proof.Machine
end

