-- ==== Sys2Proof/Machine/Transactions.lean ====
section
/-! DEFINITION. The host's transactions and read ports (70_reset_and_hazards.md R260 to R266; 60_exceptions.md R235 to R238).
Each transaction is atomic, and a run is a list of them in any order (10_state.md R22; R267). -/

namespace Sys2Proof.Machine

/-! ### Transactions that change state -/

/-- `reset`, at any time, in the halted state too (R260). It does not touch the random source (41_alu.md R166), and FONT is a
constant of the machine (10_state.md R41). -/
def resetTransaction (s : State) : State := { State.reset with font := s.font, randomDraws := s.randomDraws }

/-- The default offset of `load` (R266). -/
abbrev defaultLoadOffset : Nat := 0x200

/-- `load(bytes, offset)` (R266): the bytes are written; a load that does not fit changes nothing (LoadOverflow, R225); the case
`offset + length = 0x1000` has no meaning (C4, D18, log 19). -/
def loadTransaction (bytes : List Byte) (offset : Nat) (s : State) : Result :=
  if offset + bytes.length ≤ 0xFFF then .next (s.storeBytes offset bytes)
  else if offset + bytes.length = 0x1000 then .refused .loadBoundaryCase
  else .next s

/-- Whether `load` reports LoadOverflow (R220, R225, R266). -/
def loadOverflow (bytes : List Byte) (offset : Nat) : Bool := decide (offset + bytes.length > 0x1000)

/-- One timer tick: a timer stops at 0 (60_exceptions.md R235). -/
def ticked (t : Byte) : Byte := if t = 0#8 then 0#8 else t - 1#8

/-- `tick_timers` (60_exceptions.md R235). -/
def tickTimers (s : State) : State := { s with dt := ticked s.dt, st := ticked s.st }

/-- `set_key(index, pressed)` (60_exceptions.md R237); an index above 15 has no meaning (D29, log 20). -/
def setKey (index : Nat) (pressed : Bool) (s : State) : Result :=
  if h : index < 16 then .next { s with keys := s.keys.set index pressed } else .refused .keyIndexOutsideDomain

/-! ### Read ports -/

/-- `get_keys()` (60_exceptions.md R237). -/
def getKeys (s : State) : List Bool := s.keys.toList

/-- `framebuffer()`, the cells in row-major order: cell (x, y) at index `x + y*64` (60_exceptions.md R238). -/
def framebufferCells (s : State) : List Bool :=
  (List.range 2048).map fun k => s.pixel (Fin.ofNat 64 k) (Fin.ofNat 32 (k / 64))

/-- `sound_active()` (60_exceptions.md R236). -/
def soundActive (s : State) : Bool := s.st != 0#8

/-! ### Runs of transactions (10_state.md R22) -/

/-- The transactions that change state (R265). -/
inductive Transaction where
  | reset
  | load (bytes : List Byte) (offset : Nat)
  | step
  | tickTimers
  | setKey (index : Nat) (pressed : Bool)
deriving DecidableEq, Repr

/-- What a transaction does. -/
def applyTransaction (t : Transaction) (s : State) : Result :=
  match t with
  | .reset => .next (resetTransaction s)
  | .load bytes offset => loadTransaction bytes offset s
  | .step => step s
  | .tickTimers => .next (tickTimers s)
  | .setKey index pressed => setKey index pressed s

/-- A run: the transactions in the host's order, up to the first one without a meaning. -/
def runTransactions : List Transaction → State → Result
  | [], s => .next s
  | t :: ts, s =>
    match applyTransaction t s with
    | .next s' => runTransactions ts s'
    | .fault r => .fault r
    | .refused r => .refused r

end Sys2Proof.Machine
end

