-- ==== Sys2Proof/Safety.lean ====
section
/-! DEFINITION. The terms claims use: a running and a halted machine (60_exceptions.md R227), the key wait (44_keypad_timers.md
R204), the end of a run (70_reset_and_hazards.md R270, log 28), and the invariant of the machine. -/

namespace Sys2Proof.Machine

/-- No fatal fault since reset: "a halted state is a fault outcome, never a final state of a successful run" (R227). -/
def State.Running (s : State) : Prop := s.halt = false

/-- The machine is in the key wait (R204): HALT = 0, `pc <= 0xFFE`, the word at `pc` has `iw & 0xF0FF = 0xF00A`, no key
pressed. -/
def State.KeyWait (s : State) : Prop :=
  s.halt = false ∧ s.pc.toNat ≤ 0xFFE ∧ s.fetchWord &&& 0xF0FF#16 = 0xF00A#16 ∧ ∀ k, s.key k = false

/-- The end of a run by the spec's convention (R270, D25): a jump to its own address at `pc`. -/
def State.AtSelfJump (s : State) : Prop :=
  s.halt = false ∧ s.pc.toNat ≤ 0xFFE ∧ decode s.fetchWord = .instr (.jp (s.pc.setWidth 12))

/-- The fault status is coherent (R34, R226, R229): HALT says whether there is a kind; an address is recorded for OutOfBounds
only, and it lies above 0xFFF. -/
def State.FaultStatusOk (s : State) : Prop :=
  (s.halt = true ↔ s.faultKind ≠ .none) ∧
  (s.faultKind = .outOfBounds → 0x1000 ≤ s.faultAddr.toNat) ∧
  (s.faultKind ≠ .outOfBounds → s.faultAddr = 0#16)

/-- The invariant: memory is in canonical form, `pc` and every stack entry stay in the bounds of 10_state.md R27, the fault
status is coherent. -/
structure State.Inv (s : State) : Prop where
  memory : Memory.wf s.font s.memory = true
  pc : s.pc.toNat ≤ 0x10FE
  stack : ∀ k : Fin 16, s.stack[k].toNat ≤ 0x1000
  faultStatus : s.FaultStatusOk

/-- A run of transactions that leaves a running machine. -/
def SafeRun (ts : List Transaction) (s : State) : Prop := ∃ t, runTransactions ts s = .next t ∧ t.Running

end Sys2Proof.Machine
end

