-- ==== Sys2Proof/Certificates/Slice0/Obligations.lean ====
section
/-! DEFINITION. The statements for the provers. `{ t with pc := s.pc } = s` says that t differs from s in nothing but `pc`; it is
the frame of 00_scope.md R14 (the spec's decision D2, log 26): every register, flag, stack entry, timer, key, pixel, fault
register and byte of memory not named keeps its value. -/

open Sys2Proof Sys2Proof.Machine

namespace Sys2Proof.Claims

/-- Every word that agrees with a row of the opcode table decodes to that row's instruction, its operands read from the word. -/
def Selects (mask pattern : Word) (instr : Word → Instr) : Prop :=
  ∀ iw : Word, iw &&& mask = pattern → decode iw = .instr (instr iw)

/-- The fatal fault of an access from `base` (60_exceptions.md R226, R229): HALT, FAULT_KIND and FAULT_ADDR written, nothing
else. -/
def OutOfBoundsFrom (base : Word) (s t : State) : Prop :=
  t.halt = true ∧ t.faultKind = .outOfBounds ∧ t.faultAddr.toNat = max base.toNat 0x1000 ∧
  { t with halt := s.halt, faultKind := s.faultKind, faultAddr := s.faultAddr } = s

/-- "Flags: none": VF keeps its value. -/
def NoFlag (s t : State) : Prop := t.reg 15 = s.reg 15

/-- "Faults: none": the fault status keeps its value. -/
def NoFault (s t : State) : Prop := t.halt = s.halt ∧ t.faultKind = s.faultKind ∧ t.faultAddr = s.faultAddr

/-- How many bytes of memory an instruction touches from I up (20_memory.md R70). -/
def accessCount : Instr → Nat
  | .drw _ _ n => n
  | .ldB _ => 3
  | .stRegs x => x.val + 1
  | .ldRegs x => x.val + 1
  | _ => 0

/-- The register instructions that always end with `pc + 2`, with the register each names as its destination. -/
def registerDestination : Instr → Option RegIdx
  | .ldImm x _ => some x
  | .addImm x _ => some x
  | .ldReg x _ => some x
  | .orReg x _ => some x
  | .andReg x _ => some x
  | .xorReg x _ => some x
  | .addReg x _ => some x
  | .sub x _ => some x
  | .shr x _ => some x
  | .subn x _ => some x
  | .shl x _ => some x
  | .rnd x _ => some x
  | .ldVxDt x => some x
  | _ => none

/-- The instructions that write VF as a side effect (10_state.md R36). -/
def writesFlag : Instr → Bool
  | .addReg _ _ => true
  | .sub _ _ => true
  | .shr _ _ => true
  | .subn _ _ => true
  | .shl _ _ => true
  | .drw _ _ _ => true
  | _ => false

/-- The instructions whose destination registers include VF because an operand names it (10_state.md R36). -/
def namesVfAsDestination : Instr → Prop
  | .ldVxK x => x = 15
  | .ldRegs x => x = 15
  | i => registerDestination i = some 15

/-- The bits of a word that take part in decoding its instruction or its operands (30_encoding.md R99). -/
def decidedBits : Instr → Word
  | .cls => 0xF0FF#16
  | .ret => 0xF0FF#16
  | .seReg _ _ => 0xFFF0#16
  | .sneReg _ _ => 0xFFF0#16
  | _ => 0xFFFF#16

/-- Cell (x, y) is at the wrapped position of a set bit of the sprite (43_display.md R191, R192). -/
def Covers (vx vy : Byte) (rows : List Byte) (x : Fin 64) (y : Fin 32) : Prop :=
  ∃ r c : Nat, ∃ hr : r < rows.length, c < 8 ∧ (rows[r]).getLsbD (7 - c) = true ∧
    x.val = (vx.toNat + c) % 64 ∧ y.val = (vy.toNat + r) % 32

end Sys2Proof.Claims

open Sys2Proof.Claims

/-! ### Reset and host operations -/

/-- 70_reset_and_hazards.md R260, 10_state.md R43. Clearing the keypad and the fault status is the spec's decision D16 (log 17);
keeping `font` and `randomDraws` is the model's (log 1, log 2). -/
def Obligations.ResetGivesTheTableOfResetValues : Prop :=
  (∀ s : State, ∃ t, applyTransaction .reset s = .next t ∧
    (∀ x, t.reg x = 0#8) ∧ t.i = 0#16 ∧ t.pc = 0x200#16 ∧ t.sp = 0 ∧ (∀ k : Fin 16, t.stack[k] = 0#16) ∧
    t.dt = 0#8 ∧ t.st = 0#8 ∧ (∀ k, t.key k = false) ∧ (∀ x y, t.pixel x y = false) ∧
    t.halt = false ∧ t.faultKind = .none ∧ t.faultAddr = 0#16 ∧
    (∀ a, a < 0x1000 → (a < 0x050 ∨ 0x0A0 ≤ a) → t.readByte a = 0#8) ∧
    (∀ k : Fin 80, t.readByte (0x050 + k.val) = s.font[k]) ∧
    t.font = s.font ∧ t.randomDraws = s.randomDraws) ∧
  applyTransaction .reset State.reset = .next State.reset

/-- 60_exceptions.md R235: what a tick does, and that nothing else but Fx15, Fx18 and reset moves a timer. -/
def Obligations.TimersMoveByTickAndTimerWritesOnly : Prop :=
  (∀ s : State, (tickTimers s).dt.toNat = s.dt.toNat - 1 ∧ (tickTimers s).st.toNat = s.st.toNat - 1 ∧
    { tickTimers s with dt := s.dt, st := s.st } = s) ∧
  (∀ s t : State, step s = .next t →
    (t.dt ≠ s.dt → ∃ x, decode s.fetchWord = .instr (.ldDtVx x) ∧ t.dt = s.reg x) ∧
    (t.st ≠ s.st → ∃ x, decode s.fetchWord = .instr (.ldStVx x) ∧ t.st = s.reg x)) ∧
  (∀ (s t : State) (bytes : List Byte) (offset : Nat), applyTransaction (.load bytes offset) s = .next t →
    t.dt = s.dt ∧ t.st = s.st) ∧
  (∀ (s t : State) (k : Nat) (p : Bool), applyTransaction (.setKey k p) s = .next t → t.dt = s.dt ∧ t.st = s.st)

/-- 60_exceptions.md R237: one key is written and nothing else, an index above 15 has no meaning, `get_keys` reads the 16 keys,
and no step writes one. -/
def Obligations.SetKeyWritesOneKeyAndStepsWriteNone : Prop :=
  (∀ (s : State) (k : Fin 16) (p : Bool), ∃ t, applyTransaction (.setKey k.val p) s = .next t ∧
    (∀ j, t.key j = if j = k then p else s.key j) ∧ { t with keys := s.keys } = s) ∧
  (∀ (s : State) (k : Nat) (p : Bool), 16 ≤ k →
    applyTransaction (.setKey k p) s = .refused .keyIndexOutsideDomain) ∧
  (∀ s : State, (getKeys s).length = 16 ∧ ∀ k : Fin 16, (getKeys s)[k.val]? = some (s.key k)) ∧
  (∀ s t : State, step s = .next t → t.keys = s.keys)

/-- 70_reset_and_hazards.md R266 with the boundary case of D18 (log 19). -/
def Obligations.LoadCopiesTheBytesOrChangesNothing : Prop :=
  ∀ (s : State) (bytes : List Byte) (offset : Nat), Memory.wf s.font s.memory = true →
    (offset + bytes.length ≤ 0xFFF → ∃ t, applyTransaction (.load bytes offset) s = .next t ∧
      loadOverflow bytes offset = false ∧
      (∀ (k : Nat) (hk : k < bytes.length), t.readByte (offset + k) = bytes[k]) ∧
      (∀ a, (a < offset ∨ offset + bytes.length ≤ a) → t.readByte a = s.readByte a) ∧
      { t with memory := s.memory } = s) ∧
    (0x1000 < offset + bytes.length →
      applyTransaction (.load bytes offset) s = .next s ∧ loadOverflow bytes offset = true) ∧
    (offset + bytes.length = 0x1000 → applyTransaction (.load bytes offset) s = .refused .loadBoundaryCase)

/-- 60_exceptions.md R236 and R238: the two read ports, and that no host operation but reset writes the framebuffer. -/
def Obligations.SoundAndFramebufferPortsShowTheState : Prop :=
  (∀ s : State, soundActive s = true ↔ s.st ≠ 0#8) ∧
  (∀ s : State, (framebufferCells s).length = 2048 ∧
    ∀ (x : Fin 64) (y : Fin 32), (framebufferCells s)[x.val + y.val * 64]? = some (s.pixel x y)) ∧
  (∀ (r : Transaction) (s t : State), r ≠ .step → r ≠ .reset → applyTransaction r s = .next t → t.fb = s.fb)

/-! ### The step -/

/-- 10_state.md R21: a step that can fetch and decode runs the decoded instruction, its word read high byte first
(20_memory.md R67). -/
def Obligations.StepRunsTheDecodedInstruction : Prop :=
  ∀ (s : State) (i : Instr), s.halt = false → s.pc.toNat ≤ 0xFFE →
    decodeBytes [s.readByte s.pc.toNat, s.readByte (s.pc.toNat + 1)] = .instr i [] → step s = exec i s

/-- 20_memory.md R67 and R68: the fetched word as a number, and that a fetch uses `pc` as it stands, odd or even (R69). -/
def Obligations.FetchIsBigEndianAtAnyAddress : Prop :=
  ∀ s : State, s.pc.toNat ≤ 0xFFE → ∃ iw, s.fetch = some iw ∧
    iw.toNat = 256 * (s.readByte s.pc.toNat).toNat + (s.readByte (s.pc.toNat + 1)).toNat

/-- 60_exceptions.md R224 (the address reported is the spec's decision D12). -/
def Obligations.UnknownWordIsReportedOnceAndSkipped : Prop :=
  ∀ (s : State) (w : Word), s.halt = false → s.pc.toNat ≤ 0xFFE → decode s.fetchWord = .unknownOpcode w →
    w = s.fetchWord ∧ step s = .next { s with pc := s.pc + 2#16 } ∧
    stepOutput s = { displayChanged := false, unknownOpcode := some (s.fetchWord, s.pc), fault := none, keyWait := false }

/-- 60_exceptions.md R227 (the spec's decisions D10 and D21): a halted step is silent and changes nothing, only reset ends the
halted state, and every other transaction leaves the fault status and, but for its own effect, the state alone. -/
def Obligations.HaltedMachineStaysAsItIsUntilReset : Prop :=
  ∀ s : State, s.halt = true →
    step s = .next s ∧ stepOutput s = StepOutput.silent ∧
    (∀ (r : Transaction) (t : State), r ≠ .reset → applyTransaction r s = .next t →
      t.halt = true ∧ t.faultKind = s.faultKind ∧ t.faultAddr = s.faultAddr ∧ t.v = s.v ∧ t.pc = s.pc ∧ t.i = s.i ∧
      t.fb = s.fb ∧ t.stack = s.stack ∧ t.sp = s.sp) ∧
    (∃ t, applyTransaction .reset s = .next t ∧ t.halt = false) ∧
    applyTransaction .tickTimers s = .next (tickTimers s)

/-- 20_memory.md R68, 60_exceptions.md R221a (the address reported is the spec's decision D9, log 15). -/
def Obligations.FetchBeyondMemoryRaisesOutOfBounds : Prop :=
  ∀ s : State, s.halt = false → 0xFFE < s.pc.toNat →
    ∃ t, step s = .next t ∧ OutOfBoundsFrom s.pc s t ∧
      (stepOutput s).fault = some (.outOfBounds, t.faultAddr) ∧ (stepOutput s).unknownOpcode = none

/-- The MODEL'S CHOICE of log 3, no rule of the spec: a fatal fault is a next state and no function answers `Outcome.fault`, so a
step in any state answers a next state (the spec's own words are "or fails fatally", 10_state.md R22). -/
def Obligations.EveryStepAnswersANextState : Prop := ∀ s : State, ∃ t, step s = .next t

/-! ### Faults -/

/-- 60_exceptions.md R226 and R228 (the fault registers are the spec's decision D10): a step that halts the machine writes the
fault status and nothing else, and emits exactly it. -/
def Obligations.FatalFaultsArePrecise : Prop :=
  ∀ s t : State, s.halt = false → step s = .next t → t.halt = true →
    t.faultKind ≠ .none ∧
    { t with halt := s.halt, faultKind := s.faultKind, faultAddr := s.faultAddr } = s ∧
    stepOutput s = { displayChanged := false, unknownOpcode := none, fault := some (t.faultKind, t.faultAddr), keyWait := false }

/-- 60_exceptions.md R222 and R223: where the two stack faults are raised, what they record, and that nothing else raises them
(the form of the fault status is the spec's decision D10, log 3). -/
def Obligations.StackFaultsAreRaisedAtTheLimitsOnly : Prop :=
  (∀ (s : State) (nnn : BitVec 12), s.sp = 16 →
    exec (.call nnn) s = .next { s with halt := true, faultKind := .stackOverflow, faultAddr := 0#16 }) ∧
  (∀ s : State, s.sp = 0 →
    exec .ret s = .next { s with halt := true, faultKind := .stackUnderflow, faultAddr := 0#16 }) ∧
  (∀ s t : State, s.halt = false → step s = .next t → t.halt = true →
    (t.faultKind = .stackOverflow → s.sp = 16 ∧ ∃ nnn, decode s.fetchWord = .instr (.call nnn)) ∧
    (t.faultKind = .stackUnderflow → s.sp = 0 ∧ decode s.fetchWord = .instr .ret))

/-- 60_exceptions.md R221 with R70 and R229 (address: the spec's decision D9; an access of no bytes: D24): OutOfBounds is raised
by exactly these steps. -/
def Obligations.OutOfBoundsIsRaisedByExactlyTheseAccesses : Prop :=
  ∀ s t : State, s.halt = false → step s = .next t →
    ((t.halt = true ∧ t.faultKind = .outOfBounds) ↔
      (0xFFE < s.pc.toNat ∨
        ∃ i, s.pc.toNat ≤ 0xFFE ∧ decode s.fetchWord = .instr i ∧ accessCount i ≠ 0 ∧
          0x1000 < s.i.toNat + accessCount i)) ∧
    (t.halt = true → t.faultKind = .outOfBounds →
      t.faultAddr.toNat = max (if 0xFFE < s.pc.toNat then s.pc.toNat else s.i.toNat) 0x1000)

/-! ### Encoding -/

/-- Decode and encode agree (30_encoding.md R91, R92, R102): every well-formed instruction, every operand at every value, as a
word and as bytes with any bytes after them. -/
def Obligations.DecodeOfEncodeIsTheInstruction : Prop :=
  ∀ (i : Instr) (rest : List Byte), i.WellFormed →
    decode (encode i) = .instr i ∧ decodeBytes (encodeBytes i ++ rest) = .instr i rest

/-- 30_encoding.md R102: the two-level dispatch selects a row exactly where the table's mask and match do, with the operands in
the table's fields. -/
def Obligations.DispatchSelectsExactlyTheTablesRow : Prop :=
  ∀ (iw : Word) (i : Instr), decode iw = .instr i ↔ (iw &&& i.mask = i.matchBits ∧ i = i.withFields iw)

/-- 30_encoding.md R95 to R98 and R100: which words are unknown. -/
def Obligations.UnknownWordsAreTheFourSets : Prop :=
  ∀ iw : Word, (∃ w, decode iw = .unknownOpcode w) ↔
    (Field.group iw = 0x0#4 ∧ Field.nn iw ∉ [0xE0#8, 0xEE#8]) ∨
    (Field.group iw = 0x8#4 ∧ Field.n iw ∈ [0x8#4, 0x9#4, 0xA#4, 0xB#4, 0xC#4, 0xD#4, 0xF#4]) ∨
    (Field.group iw = 0xE#4 ∧ Field.nn iw ∉ [0x9E#8, 0xA1#8]) ∨
    (Field.group iw = 0xF#4 ∧
      Field.nn iw ∉ [0x07#8, 0x0A#8, 0x15#8, 0x18#8, 0x1E#8, 0x29#8, 0x33#8, 0x55#8, 0x65#8])

/-- 30_encoding.md R102, words written out bit by bit from the table's encodings, one per format. -/
def Obligations.WordsWrittenOutDecodeRight : Prop :=
  decode 0b0000_0000_1110_1110#16 = .instr .ret ∧
  decode 0b0010_0011_0000_0001#16 = .instr (.call 0x301#12) ∧
  decode 0b0011_1010_0100_0010#16 = .instr (.seImm 10 0x42#8) ∧
  decode 0b1001_0001_0010_0000#16 = .instr (.sneReg 1 2) ∧
  decode 0b1000_0011_0111_1110#16 = .instr (.shl 3 7) ∧
  decode 0b1101_0001_0010_0101#16 = .instr (.drw 1 2 5) ∧
  decode 0b1110_0001_1010_0001#16 = .instr (.sknp 1) ∧
  decode 0b1111_0100_0110_0101#16 = .instr (.ldRegs 4) ∧
  decode 0b1000_0001_0010_1000#16 = .unknownOpcode 0x8128#16

/-- 30_encoding.md R99 (that the ignored bits are ignored is the spec's decision D14, log 16): a decoded instruction is
well-formed and its canonical word is the word with the ignored bits cleared. -/
def Obligations.CanonicalWordClearsTheIgnoredBits : Prop :=
  ∀ (iw : Word) (i : Instr), decode iw = .instr i → i.WellFormed ∧ encode i = iw &&& decidedBits i

/-- 30_encoding.md R99 (the spec's decision D14, log 16): words that differ in ignored bits only decode alike. -/
def Obligations.AliasWordsDecodeAlike : Prop :=
  (∀ a b : Word, (Field.group a = 0x5#4 ∨ Field.group a = 0x9#4) → a &&& 0xFFF0#16 = b &&& 0xFFF0#16 → decode a = decode b) ∧
  (∀ a b : Word, Field.group a = 0x0#4 → (Field.nn a = 0xE0#8 ∨ Field.nn a = 0xEE#8) →
    a &&& 0xF0FF#16 = b &&& 0xF0FF#16 → decode a = decode b)

/-! ### Control transfer -/

/-- 40_control_flow.md R121 and R127: the sum of R127 never wraps, and the old `pc` takes no part. -/
def Obligations.JumpsSetPcToTheirTarget : Prop :=
  Selects 0xF000#16 0x1000#16 (fun iw => .jp (Field.nnn iw)) ∧
  Selects 0xF000#16 0xB000#16 (fun iw => .jpV0 (Field.nnn iw)) ∧
  ∀ (s : State) (nnn : BitVec 12),
    (∃ t, exec (.jp nnn) s = .next t ∧ t.pc.toNat = nnn.toNat ∧ NoFlag s t ∧ NoFault s t) ∧
    (∃ t, exec (.jpV0 nnn) s = .next t ∧ t.pc.toNat = nnn.toNat + (s.reg 0).toNat ∧ NoFlag s t ∧ NoFault s t)

/-- The frame of JP, JP_V0, SE_IMM, SNE_IMM, SE_REG, SNE_REG, SKP, SKNP, LD_I, LD_DT_VX, LD_ST_VX and CLS (00_scope.md R14, the
spec's decision D2, log 26): each completes and changes the one thing it names and `pc`. -/
def Obligations.JumpsSkipsAndSingleWritesChangeNothingElse : Prop :=
  ∀ (s : State) (x y : RegIdx) (nn : Byte) (nnn : BitVec 12),
    (∀ i : Instr, i ∈ [.jp nnn, .jpV0 nnn, .seImm x nn, .sneImm x nn, .seReg x y, .sneReg x y, .skp x, .sknp x] →
      ∃ t, exec i s = .next t ∧ { t with pc := s.pc } = s) ∧
    (∃ t, exec (.ldI nnn) s = .next t ∧ { t with i := s.i, pc := s.pc } = s) ∧
    (∃ t, exec (.ldDtVx x) s = .next t ∧ { t with dt := s.dt, pc := s.pc } = s) ∧
    (∃ t, exec (.ldStVx x) s = .next t ∧ { t with st := s.st, pc := s.pc } = s) ∧
    (∃ t, exec .cls s = .next t ∧ { t with fb := s.fb, pc := s.pc } = s)

/-- 40_control_flow.md R122: the push, and the overflow at 16 (the form of the fault status is the spec's decision D10, log 3; the
frame D2, log 26). -/
def Obligations.CallPushesTheReturnAddress : Prop :=
  Selects 0xF000#16 0x2000#16 (fun iw => .call (Field.nnn iw)) ∧
  (∀ (s : State) (nnn : BitVec 12), s.sp.val < 16 → ∃ t, exec (.call nnn) s = .next t ∧
    t.pc.toNat = nnn.toNat ∧ t.sp.val = s.sp.val + 1 ∧
    (∀ k : Fin 16, t.stack[k] = if k.val = s.sp.val then s.pc + 2#16 else s.stack[k]) ∧
    { t with pc := s.pc, sp := s.sp, stack := s.stack } = s) ∧
  (∀ (s : State) (nnn : BitVec 12), s.sp = 16 →
    exec (.call nnn) s = .next { s with halt := true, faultKind := .stackOverflow, faultAddr := 0#16 })

/-- 40_control_flow.md R120: the pop, and the underflow at 0 (the form of the fault status is the spec's decision D10, log 3; the
frame D2, log 26; that bits 11:8 of the word are ignored D14, log 16); the stack entries keep their values. -/
def Obligations.ReturnPopsIntoPc : Prop :=
  Selects 0xF0FF#16 0x00EE#16 (fun _ => .ret) ∧
  (∀ (s : State) (k : Fin 16), s.sp.val = k.val + 1 → ∃ t, exec .ret s = .next t ∧
    t.pc = s.stack[k] ∧ t.sp.val = k.val ∧ { t with pc := s.pc, sp := s.sp } = s) ∧
  (∀ s : State, s.sp = 0 →
    exec .ret s = .next { s with halt := true, faultKind := .stackUnderflow, faultAddr := 0#16 })

/-- 40_control_flow.md R123 and R124. -/
def Obligations.ImmediateSkipsCompareOneRegister : Prop :=
  Selects 0xF000#16 0x3000#16 (fun iw => .seImm (Field.x iw) (Field.nn iw)) ∧
  Selects 0xF000#16 0x4000#16 (fun iw => .sneImm (Field.x iw) (Field.nn iw)) ∧
  ∀ (s : State) (x : RegIdx) (nn : Byte),
    (∃ t, exec (.seImm x nn) s = .next t ∧
      t.pc = (if (s.reg x).toNat = nn.toNat then s.pc + 4#16 else s.pc + 2#16) ∧ NoFlag s t ∧ NoFault s t) ∧
    (∃ t, exec (.sneImm x nn) s = .next t ∧
      t.pc = (if (s.reg x).toNat ≠ nn.toNat then s.pc + 4#16 else s.pc + 2#16) ∧ NoFlag s t ∧ NoFault s t)

/-- 40_control_flow.md R125 and R126; that the low nibble is ignored (words 5xyN and 9xyN) is the spec's decision D14 (log 16). -/
def Obligations.RegisterSkipsCompareTwoRegisters : Prop :=
  Selects 0xF000#16 0x5000#16 (fun iw => .seReg (Field.x iw) (Field.y iw)) ∧
  Selects 0xF000#16 0x9000#16 (fun iw => .sneReg (Field.x iw) (Field.y iw)) ∧
  ∀ (s : State) (x y : RegIdx),
    (∃ t, exec (.seReg x y) s = .next t ∧
      t.pc = (if (s.reg x).toNat = (s.reg y).toNat then s.pc + 4#16 else s.pc + 2#16) ∧ NoFlag s t ∧ NoFault s t) ∧
    (∃ t, exec (.sneReg x y) s = .next t ∧
      t.pc = (if (s.reg x).toNat ≠ (s.reg y).toNat then s.pc + 4#16 else s.pc + 2#16) ∧ NoFlag s t ∧ NoFault s t)

/-- The source's call and return round trip (95_test_vectors.md S6; 40_control_flow.md R120, R122): whatever the subroutine did
to the rest of the state, a return with the stack the call left goes to the instruction after the call. -/
def Obligations.ReturnUndoesCall : Prop :=
  ∀ (s t u : State) (nnn : BitVec 12), s.sp.val < 16 → exec (.call nnn) s = .next t → u.stack = t.stack → u.sp = t.sp →
    ∃ w, exec .ret u = .next w ∧ w.pc = s.pc + 2#16 ∧ w.sp = s.sp ∧
      ∀ k : Fin 16, k.val < s.sp.val → w.stack[k] = s.stack[k]

/-! ### Register and ALU instructions -/

/-- 41_alu.md R140 and R142, every destination, VF among them (frame: `RegisterInstructionsChangeOnlyTheirDestination`). -/
def Obligations.LoadsCopyTheirSource : Prop :=
  Selects 0xF000#16 0x6000#16 (fun iw => .ldImm (Field.x iw) (Field.nn iw)) ∧
  Selects 0xF00F#16 0x8000#16 (fun iw => .ldReg (Field.x iw) (Field.y iw)) ∧
  (∀ (s : State) (x : RegIdx) (nn : Byte), ∃ t, exec (.ldImm x nn) s = .next t ∧
    t.reg x = nn ∧ t.pc = s.pc + 2#16 ∧ (x ≠ 15 → NoFlag s t) ∧ NoFault s t) ∧
  (∀ (s : State) (x y : RegIdx), ∃ t, exec (.ldReg x y) s = .next t ∧
    t.reg x = s.reg y ∧ t.pc = s.pc + 2#16 ∧ (x ≠ 15 → NoFlag s t) ∧ NoFault s t)

/-- 41_alu.md R161 and R141: the sum modulo 256, the carry of 8xy4 (here with a destination other than VF; VF as destination is
`FlagWritersWithVfAsDestination`) in both forms the rule gives, and no flag from 7xnn. -/
def Obligations.AdditionGivesTheSumAndTheCarry : Prop :=
  Selects 0xF000#16 0x7000#16 (fun iw => .addImm (Field.x iw) (Field.nn iw)) ∧
  (∀ (s : State) (x y : RegIdx), x ≠ 15 → ∃ t, exec (.addReg x y) s = .next t ∧
    (t.reg x).toNat = ((s.reg x).toNat + (s.reg y).toNat) % 256 ∧
    (t.reg 15 = 1#8 ↔ (s.reg x).toNat + (s.reg y).toNat > 255) ∧
    (t.reg 15 = 1#8 ↔ (t.reg x).toNat < (s.reg x).toNat) ∧ (t.reg 15 = 0#8 ∨ t.reg 15 = 1#8)) ∧
  (∀ (s : State) (x : RegIdx) (nn : Byte), ∃ t, exec (.addImm x nn) s = .next t ∧
    (t.reg x).toNat = ((s.reg x).toNat + nn.toNat) % 256 ∧ t.pc = s.pc + 2#16 ∧ (x ≠ 15 → NoFlag s t) ∧ NoFault s t)

/-- 41_alu.md R162: the difference modulo 256 and the complement of the borrow, for 8xy5 (x - y) and 8xy7 (y - x), with a
destination other than VF. -/
def Obligations.SubtractionGivesTheDifferenceAndNotBorrow : Prop :=
  (∀ (s : State) (x y : RegIdx), x ≠ 15 → ∃ t, exec (.sub x y) s = .next t ∧
    (t.reg x).toNat =
      (if (s.reg y).toNat ≤ (s.reg x).toNat then (s.reg x).toNat - (s.reg y).toNat
       else (s.reg x).toNat + 256 - (s.reg y).toNat) ∧
    t.reg 15 = (if (s.reg y).toNat > (s.reg x).toNat then 0#8 else 1#8)) ∧
  (∀ (s : State) (x y : RegIdx), x ≠ 15 → ∃ t, exec (.subn x y) s = .next t ∧
    (t.reg x).toNat =
      (if (s.reg x).toNat ≤ (s.reg y).toNat then (s.reg y).toNat - (s.reg x).toNat
       else (s.reg y).toNat + 256 - (s.reg x).toNat) ∧
    t.reg 15 = (if (s.reg x).toNat > (s.reg y).toNat then 0#8 else 1#8))

/-- 41_alu.md R163: both shifts bit by bit, the bit shifted out in VF, Vy no operand (the state with Vy changed gives the same
result), with a destination other than VF. -/
def Obligations.ShiftsMoveByOneBit : Prop :=
  ∀ (s : State) (x y y' : RegIdx), x ≠ 15 →
    (∃ t, exec (.shr x y) s = .next t ∧ exec (.shr x y') s = .next t ∧
      (t.reg x).getLsbD 7 = false ∧ (∀ k < 7, (t.reg x).getLsbD k = (s.reg x).getLsbD (k + 1)) ∧
      t.reg 15 = (if (s.reg x).getLsbD 0 then 1#8 else 0#8)) ∧
    (∃ t, exec (.shl x y) s = .next t ∧ exec (.shl x y') s = .next t ∧
      (t.reg x).getLsbD 0 = false ∧ (∀ k < 7, (t.reg x).getLsbD (k + 1) = (s.reg x).getLsbD k) ∧
      t.reg 15 = (if (s.reg x).getLsbD 7 then 1#8 else 0#8))

/-- 41_alu.md R164, R143, R144, R145: bit by bit, every destination, no flag (frame:
`RegisterInstructionsChangeOnlyTheirDestination`). -/
def Obligations.BitwiseOperationsActOnEachBitAndWriteNoFlag : Prop :=
  Selects 0xF00F#16 0x8001#16 (fun iw => .orReg (Field.x iw) (Field.y iw)) ∧
  Selects 0xF00F#16 0x8002#16 (fun iw => .andReg (Field.x iw) (Field.y iw)) ∧
  Selects 0xF00F#16 0x8003#16 (fun iw => .xorReg (Field.x iw) (Field.y iw)) ∧
  ∀ (s : State) (x y : RegIdx),
    (∃ t, exec (.orReg x y) s = .next t ∧
      (∀ k < 8, (t.reg x).getLsbD k = ((s.reg x).getLsbD k || (s.reg y).getLsbD k)) ∧
      t.pc = s.pc + 2#16 ∧ (x ≠ 15 → NoFlag s t) ∧ NoFault s t) ∧
    (∃ t, exec (.andReg x y) s = .next t ∧
      (∀ k < 8, (t.reg x).getLsbD k = ((s.reg x).getLsbD k && (s.reg y).getLsbD k)) ∧
      t.pc = s.pc + 2#16 ∧ (x ≠ 15 → NoFlag s t) ∧ NoFault s t) ∧
    (∃ t, exec (.xorReg x y) s = .next t ∧
      (∀ k < 8, (t.reg x).getLsbD k = ((s.reg x).getLsbD k ^^ (s.reg y).getLsbD k)) ∧
      t.pc = s.pc + 2#16 ∧ (x ≠ 15 → NoFlag s t) ∧ NoFault s t)

/-- 41_alu.md R165, the spec's decision D3 (log 8): with VF as destination, 8xy4, 8xy5 and 8xy7 end with the flag and the two
shifts with the shifted value; nothing but VF and `pc` changes. -/
def Obligations.FlagWritersWithVfAsDestination : Prop :=
  ∀ (s : State) (y : RegIdx),
    (∃ t, exec (.addReg 15 y) s = .next t ∧
      t.reg 15 = (if (s.reg 15).toNat + (s.reg y).toNat > 255 then 1#8 else 0#8)) ∧
    (∃ t, exec (.sub 15 y) s = .next t ∧ t.reg 15 = (if (s.reg y).toNat > (s.reg 15).toNat then 0#8 else 1#8)) ∧
    (∃ t, exec (.subn 15 y) s = .next t ∧ t.reg 15 = (if (s.reg 15).toNat > (s.reg y).toNat then 0#8 else 1#8)) ∧
    (∃ t, exec (.shr 15 y) s = .next t ∧ (t.reg 15).toNat = (s.reg 15).toNat / 2) ∧
    (∃ t, exec (.shl 15 y) s = .next t ∧ (t.reg 15).toNat = (s.reg 15).toNat * 2 % 256)

/-- The frame of the register instructions LD_IMM, ADD_IMM, LD_REG, OR, AND, XOR, ADD_REG, SUB, SHR, SUBN, SHL, RND, LD_VX_DT
(00_scope.md R14, the spec's decision D2, log 26; 10_state.md R36): each completes; registers other than the destination and, for
the flag writers, VF are unchanged; `pc` advances by 2; everything else is unchanged, but the count of random draws for RND. -/
def Obligations.RegisterInstructionsChangeOnlyTheirDestination : Prop :=
  ∀ (i : Instr) (x : RegIdx) (s : State), registerDestination i = some x →
    ∃ t, exec i s = .next t ∧ (∀ r, r ≠ x → (writesFlag i = true → r ≠ 15) → t.reg r = s.reg r) ∧
      t.pc = s.pc + 2#16 ∧ { t with v := s.v, pc := s.pc, randomDraws := s.randomDraws } = s ∧
      ((∀ nn, i ≠ .rnd x nn) → t.randomDraws = s.randomDraws)

/-- 41_alu.md R151 and R166 (a free draw for each execution: the spec's decision D20, log 2): the sample masked by nn, for
every value of the sample; the next execution samples the next draw. -/
def Obligations.RandomMaskStoresTheSampleMasked : Prop :=
  Selects 0xF000#16 0xC000#16 (fun iw => .rnd (Field.x iw) (Field.nn iw)) ∧
  ∀ (s : State) (x : RegIdx) (nn : Byte), ∃ t, exec (.rnd x nn) s = .next t ∧
    (∀ k < 8, (t.reg x).getLsbD k = ((Config.randomByte s.randomDraws).getLsbD k && nn.getLsbD k)) ∧
    (∀ r, r ≠ x → t.reg r = s.reg r) ∧ t.randomDraws = s.randomDraws + 1

/-! ### Index register and memory -/

/-- 42_index_memory.md R170. -/
def Obligations.LoadIndexSetsI : Prop :=
  Selects 0xF000#16 0xA000#16 (fun iw => .ldI (Field.nnn iw)) ∧
  ∀ (s : State) (nnn : BitVec 12), ∃ t, exec (.ldI nnn) s = .next t ∧ t.i.toNat = nnn.toNat ∧ t.pc = s.pc + 2#16 ∧
    NoFlag s t ∧ NoFault s t

/-- 42_index_memory.md R171, the spec's decision D5 (log 11): the sum modulo 2^16; no flag, VF as every register unchanged. -/
def Obligations.AddIndexWrapsAndWritesNoFlag : Prop :=
  Selects 0xF0FF#16 0xF01E#16 (fun iw => .addI (Field.x iw)) ∧
  ∀ (s : State) (x : RegIdx), ∃ t, exec (.addI x) s = .next t ∧
    t.i.toNat = (s.i.toNat + (s.reg x).toNat) % 65536 ∧ t.pc = s.pc + 2#16 ∧ { t with i := s.i, pc := s.pc } = s

/-- 42_index_memory.md R172, unmasked by the spec's decision D8 (log 14). -/
def Obligations.GlyphAddressIsFiveTimesTheRegister : Prop :=
  Selects 0xF0FF#16 0xF029#16 (fun iw => .ldF (Field.x iw)) ∧
  ∀ (s : State) (x : RegIdx), ∃ t, exec (.ldF x) s = .next t ∧
    t.i.toNat = 0x050 + 5 * (s.reg x).toNat ∧ t.pc = s.pc + 2#16 ∧ { t with i := s.i, pc := s.pc } = s

/-- 42_index_memory.md R173 (the fault's address is the spec's decision D9, log 15): the three digits at I, I + 1, I + 2, every
other byte as before, nothing else but `pc`; above 0xFFD the fault and no byte. -/
def Obligations.DecimalDigitsAreStoredAtI : Prop :=
  Selects 0xF0FF#16 0xF033#16 (fun iw => .ldB (Field.x iw)) ∧
  (∀ (s : State) (x : RegIdx), Memory.wf s.font s.memory = true → s.i.toNat + 2 ≤ 0xFFF →
    ∃ t, exec (.ldB x) s = .next t ∧
      (t.readByte s.i.toNat).toNat = (s.reg x).toNat / 100 ∧
      (t.readByte (s.i.toNat + 1)).toNat = (s.reg x).toNat / 10 % 10 ∧
      (t.readByte (s.i.toNat + 2)).toNat = (s.reg x).toNat % 10 ∧
      (∀ a, (a < s.i.toNat ∨ s.i.toNat + 3 ≤ a) → t.readByte a = s.readByte a) ∧
      t.pc = s.pc + 2#16 ∧ { t with memory := s.memory, pc := s.pc } = s) ∧
  (∀ (s : State) (x : RegIdx), 0xFFF < s.i.toNat + 2 → ∃ t, exec (.ldB x) s = .next t ∧ OutOfBoundsFrom s.i s t)

/-- 42_index_memory.md R174 (I unchanged: the spec's decision D2, log 26; the fault's address: D9, log 15). -/
def Obligations.StoreRegistersWritesV0ToVxAtI : Prop :=
  Selects 0xF0FF#16 0xF055#16 (fun iw => .stRegs (Field.x iw)) ∧
  (∀ (s : State) (x : RegIdx), Memory.wf s.font s.memory = true → s.i.toNat + x.val ≤ 0xFFF →
    ∃ t, exec (.stRegs x) s = .next t ∧
      (∀ k : RegIdx, k ≤ x → t.readByte (s.i.toNat + k.val) = s.reg k) ∧
      (∀ a, (a < s.i.toNat ∨ s.i.toNat + x.val < a) → t.readByte a = s.readByte a) ∧
      t.pc = s.pc + 2#16 ∧ { t with memory := s.memory, pc := s.pc } = s) ∧
  (∀ (s : State) (x : RegIdx), 0xFFF < s.i.toNat + x.val → ∃ t, exec (.stRegs x) s = .next t ∧ OutOfBoundsFrom s.i s t)

/-- 42_index_memory.md R175 (I unchanged: the spec's decision D2, log 26; the fault's address: D9, log 15). -/
def Obligations.LoadRegistersReadsV0ToVxFromI : Prop :=
  Selects 0xF0FF#16 0xF065#16 (fun iw => .ldRegs (Field.x iw)) ∧
  (∀ (s : State) (x : RegIdx), s.i.toNat + x.val ≤ 0xFFF →
    ∃ t, exec (.ldRegs x) s = .next t ∧
      (∀ k : RegIdx, t.reg k = if k ≤ x then s.readByte (s.i.toNat + k.val) else s.reg k) ∧
      t.pc = s.pc + 2#16 ∧ { t with v := s.v, pc := s.pc } = s) ∧
  (∀ (s : State) (x : RegIdx), 0xFFF < s.i.toNat + x.val → ∃ t, exec (.ldRegs x) s = .next t ∧ OutOfBoundsFrom s.i s t)

/-- The source's store and load round trip (42_index_memory.md R175, 95_test_vectors.md S9): whatever the registers became in
between, loading from the same I restores V0 to Vx. -/
def Obligations.LoadAfterStoreRestoresTheRegisters : Prop :=
  ∀ (s t u : State) (x : RegIdx), Memory.wf s.font s.memory = true → s.i.toNat + x.val ≤ 0xFFF →
    exec (.stRegs x) s = .next t → u.memory = t.memory → u.font = t.font → u.i = s.i →
    ∃ w, exec (.ldRegs x) u = .next w ∧ ∀ k : RegIdx, k ≤ x → w.reg k = s.reg k

/-- 20_memory.md R74: a store is seen by the very next fetch, in front of the storing instruction too. -/
def Obligations.StoreIsSeenByTheNextFetch : Prop :=
  ∀ (s t : State) (x : RegIdx), Memory.wf s.font s.memory = true → s.pc.toNat + 4 ≤ 0x1000 →
    s.i = s.pc + 2#16 → 1 ≤ x.val → s.i.toNat + x.val ≤ 0xFFF → exec (.stRegs x) s = .next t →
    t.fetch = some (wordOfBytes (s.reg 0) (s.reg 1))

/-! ### Display -/

/-- 43_display.md R190: every cell clear, and the step reports the display changed. The report, also for a framebuffer that is
clear already, is the spec's decision D13 (log 4); that bits 11:8 of the word are ignored is D14 (log 16). -/
def Obligations.ClearDisplayClearsEveryCell : Prop :=
  Selects 0xF0FF#16 0x00E0#16 (fun _ => .cls) ∧
  (∀ s : State, ∃ t, exec .cls s = .next t ∧ (∀ x y, t.pixel x y = false) ∧ t.pc = s.pc + 2#16 ∧
    NoFlag s t ∧ NoFault s t) ∧
  (∀ s : State, s.halt = false → s.pc.toNat ≤ 0xFFE → decode s.fetchWord = .instr .cls →
    (stepOutput s).displayChanged = true)

/-- 43_display.md R191 and R192 (wrap: the spec's decision D4, log 9; no rows: D24, log 10): the pixel loop computes
`FB xor S` and `collision = (FB and S) != 0` for the wrapped sprite mask S; VF is the collision, also where `x` or `y` is 15;
every other register, I and memory are unchanged; an access that does not fit faults with nothing drawn. -/
def Obligations.DrawXorsTheSpriteMaskAndReportsCollision : Prop :=
  Selects 0xF000#16 0xD000#16 (fun iw => .drw (Field.x iw) (Field.y iw) (Field.n iw).toNat) ∧
  (∀ (s : State) (x y : RegIdx) (n : Nat), n ≤ 15 → (n = 0 ∨ s.i.toNat + n ≤ 0x1000) →
    ∃ t, exec (.drw x y n) s = .next t ∧
      (∀ px py, t.pixel px py = true ↔
        ¬(s.pixel px py = true ↔ Covers (s.reg x) (s.reg y) (s.loadBytes s.i.toNat n) px py)) ∧
      (t.reg 15 = 1#8 ↔ ∃ px py, s.pixel px py = true ∧ Covers (s.reg x) (s.reg y) (s.loadBytes s.i.toNat n) px py) ∧
      (t.reg 15 = 0#8 ∨ t.reg 15 = 1#8) ∧ (∀ r, r ≠ 15 → t.reg r = s.reg r) ∧
      t.pc = s.pc + 2#16 ∧ { t with fb := s.fb, v := s.v, pc := s.pc } = s) ∧
  (∀ (s : State) (x y : RegIdx) (n : Nat), n ≤ 15 → n ≠ 0 → 0x1000 < s.i.toNat + n →
    ∃ t, exec (.drw x y n) s = .next t ∧ OutOfBoundsFrom s.i s t)

/-- The source's draw property (95_test_vectors.md S7; 43_display.md R191): the same sprite drawn twice restores the framebuffer;
from a clear framebuffer a sprite with a set bit collides on the second draw and not on the first. -/
def Obligations.DrawingTwiceRestoresTheFramebuffer : Prop :=
  ∀ (s t u : State) (x y : RegIdx) (n : Nat), x ≠ 15 → y ≠ 15 → n ≤ 15 → s.i.toNat + n ≤ 0x1000 →
    exec (.drw x y n) s = .next t → exec (.drw x y n) t = .next u →
    u.fb = s.fb ∧
    (s.fb = Framebuffer.clear → t.reg 15 = 0#8 ∧
      ((∃ k : Fin 15, k.val < n ∧ s.readByte (s.i.toNat + k.val) ≠ 0#8) → u.reg 15 = 1#8))

/-! ### Keypad and timers -/

/-- 44_keypad_timers.md R200 and R201 (frame: D2, log 26; the low nibble as key index: R202, the spec's decision D7, log 13). -/
def Obligations.KeySkipsTestTheLowNibblesKey : Prop :=
  Selects 0xF0FF#16 0xE09E#16 (fun iw => .skp (Field.x iw)) ∧
  Selects 0xF0FF#16 0xE0A1#16 (fun iw => .sknp (Field.x iw)) ∧
  ∀ (s : State) (x : RegIdx) (k : Fin 16), k.val = (s.reg x).toNat % 16 →
    exec (.skp x) s = .next { s with pc := if s.key k = true then s.pc + 4#16 else s.pc + 2#16 } ∧
    exec (.sknp x) s = .next { s with pc := if s.key k = false then s.pc + 4#16 else s.pc + 2#16 }

/-- 44_keypad_timers.md R203 (level, lowest key: the spec's decision D6, log 12). -/
def Obligations.KeyReadWaitsOrStoresTheLowestKey : Prop :=
  Selects 0xF0FF#16 0xF00A#16 (fun iw => .ldVxK (Field.x iw)) ∧
  (∀ (s : State) (x : RegIdx), (∀ k, s.key k = false) → exec (.ldVxK x) s = .next s) ∧
  (∀ (s : State) (x : RegIdx) (k : Fin 16), s.key k = true → (∀ j, j < k → s.key j = false) →
    ∃ t, exec (.ldVxK x) s = .next t ∧ (t.reg x).toNat = k.val ∧ (∀ r, r ≠ x → t.reg r = s.reg r) ∧
      t.pc = s.pc + 2#16 ∧ { t with v := s.v, pc := s.pc } = s)

/-- 44_keypad_timers.md R205, R206 and R207. -/
def Obligations.TimerInstructionsMoveOneByte : Prop :=
  Selects 0xF0FF#16 0xF007#16 (fun iw => .ldVxDt (Field.x iw)) ∧
  Selects 0xF0FF#16 0xF015#16 (fun iw => .ldDtVx (Field.x iw)) ∧
  Selects 0xF0FF#16 0xF018#16 (fun iw => .ldStVx (Field.x iw)) ∧
  ∀ (s : State) (x : RegIdx),
    (∃ t, exec (.ldVxDt x) s = .next t ∧ t.reg x = s.dt ∧ t.dt = s.dt ∧ t.pc = s.pc + 2#16 ∧ (x ≠ 15 → NoFlag s t) ∧
      NoFault s t) ∧
    (∃ t, exec (.ldDtVx x) s = .next t ∧ t.dt = s.reg x ∧ t.pc = s.pc + 2#16 ∧ NoFlag s t ∧ NoFault s t) ∧
    (∃ t, exec (.ldStVx x) s = .next t ∧ t.st = s.reg x ∧ t.pc = s.pc + 2#16 ∧ NoFlag s t ∧ NoFault s t)

/-- 44_keypad_timers.md R204: the output `key_wait` is 1 exactly in the key wait, and a step in the key wait does not move. -/
def Obligations.KeyWaitOutputIsTheKeyWaitCondition : Prop :=
  ∀ s : State, ((stepOutput s).keyWait = true ↔ s.KeyWait) ∧ (s.KeyWait → step s = .next s)

/-! ### Per-step outputs -/

/-- 43_display.md R193, the spec's decision D13 (log 4): exactly the steps that complete a 00E0 or a Dxyn. -/
def Obligations.DisplayChangedExactlyWhenADrawCompletes : Prop :=
  ∀ s t : State, step s = .next t →
    ((stepOutput s).displayChanged = true ↔
      s.halt = false ∧ s.pc.toNat ≤ 0xFFE ∧ t.halt = false ∧
        (decode s.fetchWord = .instr .cls ∨ ∃ x y n, decode s.fetchWord = .instr (.drw x y n)))

/-- 60_exceptions.md R230: one step reports at most one event, and a step that reports one draws nothing and waits for no key. -/
def Obligations.OneStepReportsAtMostOneEvent : Prop :=
  ∀ s : State,
    ((stepOutput s).fault = none ∨ (stepOutput s).unknownOpcode = none) ∧
    (((stepOutput s).fault ≠ none ∨ (stepOutput s).unknownOpcode ≠ none) →
      (stepOutput s).displayChanged = false ∧ (stepOutput s).keyWait = false)

/-! ### The whole machine -/

/-- The state after reset meets the invariant of the machine. -/
def Obligations.ResetMeetsTheInvariant : Prop := State.reset.Inv

/-- Every step keeps the invariant: memory in canonical form, `pc` at most 0x10FE and stack entries at most 0x1000 (10_state.md
R27), the fault status coherent (R34, R226). -/
def Obligations.StepKeepsTheInvariant : Prop := ∀ s t : State, s.Inv → step s = .next t → t.Inv

/-- Every run of host transactions, in any order (10_state.md R22), keeps the invariant. -/
def Obligations.TransactionRunsKeepTheInvariant : Prop :=
  ∀ (rs : List Transaction) (s t : State), s.Inv → runTransactions rs s = .next t → t.Inv

/-- 20_memory.md R76, 10_state.md R23 to R34 (the frame is the spec's decision D2, log 26; the form of the fault status D10, log 3):
which instructions can change which piece of state, for every piece but `pc`, which every instruction may change; no instruction
changes a key or FONT (the model's `font`, log 1), and only RND samples the random source (the model's `randomDraws`, log 2). -/
def Obligations.EachPieceOfStateButPcHasItsWriters : Prop :=
  ∀ (i : Instr) (s t : State), exec i s = .next t →
    (t.v ≠ s.v → registerDestination i ≠ none ∨ writesFlag i = true ∨ ∃ x, i = .ldVxK x ∨ i = .ldRegs x) ∧
    ((t.halt ≠ s.halt ∨ t.faultKind ≠ s.faultKind ∨ t.faultAddr ≠ s.faultAddr) →
      i = .ret ∨ (∃ nnn, i = .call nnn) ∨ accessCount i ≠ 0) ∧
    (t.stack ≠ s.stack → ∃ nnn, i = .call nnn) ∧
    (t.sp ≠ s.sp → i = .ret ∨ ∃ nnn, i = .call nnn) ∧
    (t.fb ≠ s.fb → i = .cls ∨ ∃ x y n, i = .drw x y n) ∧
    (t.dt ≠ s.dt → ∃ x, i = .ldDtVx x) ∧
    (t.st ≠ s.st → ∃ x, i = .ldStVx x) ∧
    (t.memory ≠ s.memory → ∃ x, i = .ldB x ∨ i = .stRegs x) ∧
    (t.i ≠ s.i → (∃ nnn, i = .ldI nnn) ∨ ∃ x, i = .addI x ∨ i = .ldF x) ∧
    (t.randomDraws ≠ s.randomDraws → ∃ x nn, i = .rnd x nn) ∧
    t.keys = s.keys ∧ t.font = s.font

/-- 10_state.md R36: an instruction that changes VF writes it as a flag or has it as a destination. -/
def Obligations.VfChangesOnlyAsFlagOrDestination : Prop :=
  ∀ (i : Instr) (s t : State), exec i s = .next t → t.reg 15 ≠ s.reg 15 → writesFlag i = true ∨ namesVfAsDestination i

/-- 10_state.md R31 and R40: a program cannot observe ST. Two machines that differ in ST only take the same step, report the
same, and differ in ST only afterwards. -/
def Obligations.SoundTimerIsNotObservable : Prop :=
  ∀ (s t : State) (b : Byte), step s = .next t →
    (∃ c, step { s with st := b } = .next { t with st := c }) ∧ stepOutput { s with st := b } = stepOutput s

/-- 41_alu.md R166: the engine is deterministic but for the random source. Two machines that differ in the number of random
draws only take the same step unless it is a Cxnn. -/
def Obligations.RandomSourceReachesRandomMaskOnly : Prop :=
  ∀ (s t : State) (k : Nat), step s = .next t → (∀ x nn, decode s.fetchWord ≠ .instr (.rnd x nn)) →
    step { s with randomDraws := k } = .next { t with randomDraws := k }

/-- 70_reset_and_hazards.md R270, the spec's end-of-run convention D25 (log 28): a step at a self-jump leaves the state
unchanged. -/
def Obligations.SelfJumpIsAFixedPoint : Prop := ∀ s : State, s.AtSelfJump → step s = .next s
end

