-- ==== Sys2Proof/Laws/Decode.lean ====
section
/-! SUPPORT. The fields of a word as numbers, and the fields of a word built by an encoding format (30_encoding.md R91, R92). -/

namespace Sys2Proof

/-! ### What the fields are as numbers -/

theorem group_toNat (iw : Word) : (Field.group iw).toNat = iw.toNat / 4096 := by
  have := iw.isLt
  simp only [Field.group, BitVec.extractLsb'_toNat, Nat.shiftRight_eq_div_pow]
  omega

theorem x_val (iw : Word) : (Field.x iw).val = iw.toNat / 256 % 16 := by
  simp only [Field.x, BitVec.val_toFin, BitVec.extractLsb'_toNat, Nat.shiftRight_eq_div_pow]

theorem y_val (iw : Word) : (Field.y iw).val = iw.toNat / 16 % 16 := by
  simp only [Field.y, BitVec.val_toFin, BitVec.extractLsb'_toNat, Nat.shiftRight_eq_div_pow]

theorem n_toNat (iw : Word) : (Field.n iw).toNat = iw.toNat % 16 := by
  simp [Field.n, BitVec.extractLsb'_toNat]

theorem nn_toNat (iw : Word) : (Field.nn iw).toNat = iw.toNat % 256 := by
  simp [Field.nn, BitVec.extractLsb'_toNat]

theorem nnn_toNat (iw : Word) : (Field.nnn iw).toNat = iw.toNat % 4096 := by
  simp [Field.nnn, BitVec.extractLsb'_toNat]

/-! ### What the formats are as numbers (R92) -/

/-- Concatenation as a sum: the second operand in the low bits. -/
theorem toNat_append_sum {m n : Nat} (a : BitVec m) (b : BitVec n) : (a ++ b).toNat = a.toNat * 2 ^ n + b.toNat := by
  rw [BitVec.toNat_append, ← Nat.shiftLeft_add_eq_or_of_lt b.isLt, Nat.shiftLeft_eq]

@[simp] theorem nibble_toNat (x : RegIdx) : (nibble x).toNat = x.val := rfl

theorem formatNNN_toNat (g : BitVec 4) (nnn : BitVec 12) : (formatNNN g nnn).toNat = g.toNat * 4096 + nnn.toNat :=
  toNat_append_sum g nnn

theorem formatXNN_toNat (g : BitVec 4) (x : RegIdx) (nn : Byte) :
    (formatXNN g x nn).toNat = g.toNat * 4096 + (x.val * 256 + nn.toNat) :=
  (toNat_append_sum g (nibble x ++ nn)).trans (by rw [toNat_append_sum, nibble_toNat]; norm_num)

theorem formatXYN_toNat (g : BitVec 4) (x y : RegIdx) (n : BitVec 4) :
    (formatXYN g x y n).toNat = g.toNat * 4096 + (x.val * 256 + (y.val * 16 + n.toNat)) :=
  (toNat_append_sum g (nibble x ++ (nibble y ++ n))).trans (by
    rw [toNat_append_sum, toNat_append_sum, nibble_toNat, nibble_toNat]; norm_num)

/-! ### Format NNN -/

@[simp] theorem group_formatNNN (g : BitVec 4) (nnn : BitVec 12) : Field.group (formatNNN g nnn) = g := by
  apply BitVec.eq_of_toNat_eq; rw [group_toNat, formatNNN_toNat]; omega

@[simp] theorem nnn_formatNNN (g : BitVec 4) (nnn : BitVec 12) : Field.nnn (formatNNN g nnn) = nnn := by
  apply BitVec.eq_of_toNat_eq; rw [nnn_toNat, formatNNN_toNat]; omega

/-! ### Formats XNN and XKK -/

@[simp] theorem group_formatXNN (g : BitVec 4) (x : RegIdx) (nn : Byte) : Field.group (formatXNN g x nn) = g := by
  apply BitVec.eq_of_toNat_eq; rw [group_toNat, formatXNN_toNat]; omega

@[simp] theorem x_formatXNN (g : BitVec 4) (x : RegIdx) (nn : Byte) : Field.x (formatXNN g x nn) = x := by
  apply Fin.ext; rw [x_val, formatXNN_toNat]; omega

@[simp] theorem nn_formatXNN (g : BitVec 4) (x : RegIdx) (nn : Byte) : Field.nn (formatXNN g x nn) = nn := by
  apply BitVec.eq_of_toNat_eq; rw [nn_toNat, formatXNN_toNat]; omega

/-! ### Formats XY, XYF and XYN -/

@[simp] theorem group_formatXYN (g : BitVec 4) (x y : RegIdx) (n : BitVec 4) : Field.group (formatXYN g x y n) = g := by
  apply BitVec.eq_of_toNat_eq; rw [group_toNat, formatXYN_toNat]; omega

@[simp] theorem x_formatXYN (g : BitVec 4) (x y : RegIdx) (n : BitVec 4) : Field.x (formatXYN g x y n) = x := by
  apply Fin.ext; rw [x_val, formatXYN_toNat]; omega

@[simp] theorem y_formatXYN (g : BitVec 4) (x y : RegIdx) (n : BitVec 4) : Field.y (formatXYN g x y n) = y := by
  apply Fin.ext; rw [y_val, formatXYN_toNat]; omega

@[simp] theorem n_formatXYN (g : BitVec 4) (x y : RegIdx) (n : BitVec 4) : Field.n (formatXYN g x y n) = n := by
  apply BitVec.eq_of_toNat_eq; rw [n_toNat, formatXYN_toNat]; omega

/-! ### Masks: the fields they keep (30_encoding.md R99, R102) -/

theorem group_and (a b : Word) : Field.group (a &&& b) = Field.group a &&& Field.group b := by
  simp [Field.group, BitVec.extractLsb'_and]

theorem nn_and (a b : Word) : Field.nn (a &&& b) = Field.nn a &&& Field.nn b := by
  simp [Field.nn, BitVec.extractLsb'_and]

theorem nnn_and (a b : Word) : Field.nnn (a &&& b) = Field.nnn a &&& Field.nnn b := by
  simp [Field.nnn, BitVec.extractLsb'_and]

theorem n_and (a b : Word) : Field.n (a &&& b) = Field.n a &&& Field.n b := by
  simp [Field.n, BitVec.extractLsb'_and]

/-- A word is its group and its low 12 bits. -/
theorem word_ext_nnn {a b : Word} (hg : Field.group a = Field.group b) (hn : Field.nnn a = Field.nnn b) : a = b := by
  apply BitVec.eq_of_toNat_eq
  have h1 := congrArg BitVec.toNat hg
  have h2 := congrArg BitVec.toNat hn
  rw [group_toNat, group_toNat] at h1
  rw [nnn_toNat, nnn_toNat] at h2
  omega

/-- The mask of a group without a second level keeps the group. -/
theorem mask_F000_iff {iw p : Word} (hp : Field.nnn p = 0#12) : iw &&& 0xF000#16 = p ↔ Field.group iw = Field.group p := by
  have hm : Field.group (iw &&& 0xF000#16) = Field.group iw := by
    rw [group_and, show Field.group 0xF000#16 = BitVec.allOnes 4 by decide, BitVec.and_allOnes]
  refine ⟨fun h => by rw [← hm, h], fun h => word_ext_nnn (hm.trans h) ?_⟩
  rw [nnn_and, show Field.nnn 0xF000#16 = 0#12 by decide, BitVec.and_zero, hp]

/-- The mask of groups 0, E and F keeps the group and the low byte. -/
theorem mask_F0FF_iff {iw p : Word} (hp : Field.nnn p &&& 0xF00#12 = 0#12) :
    iw &&& 0xF0FF#16 = p ↔ Field.group iw = Field.group p ∧ Field.nn iw = Field.nn p := by
  have hm : Field.group (iw &&& 0xF0FF#16) = Field.group iw := by
    rw [group_and, show Field.group 0xF0FF#16 = BitVec.allOnes 4 by decide, BitVec.and_allOnes]
  have hn : Field.nn (iw &&& 0xF0FF#16) = Field.nn iw := by
    rw [nn_and, show Field.nn 0xF0FF#16 = BitVec.allOnes 8 by decide, BitVec.and_allOnes]
  refine ⟨fun h => ⟨by rw [← hm, h], by rw [← hn, h]⟩, fun h => word_ext_nnn (hm.trans h.1) ?_⟩
  apply BitVec.eq_of_getLsbD_eq
  intro k hk
  have hk8 : ∀ j < 8, (Field.nnn iw).getLsbD j = (Field.nnn p).getLsbD j := fun j hj => by
    have := congrArg (BitVec.getLsbD · j) h.2
    simpa [Field.nn, Field.nnn, hj, show j < 12 by omega] using this
  have hp' := congrArg (BitVec.getLsbD · k) hp
  rw [nnn_and, show Field.nnn 0xF0FF#16 = 0x0FF#12 by decide]
  simp only [BitVec.getLsbD_and, BitVec.getLsbD_zero] at hp' ⊢
  by_cases h8 : k < 8
  · rw [hk8 k h8, show (0x0FF#12).getLsbD k = true by interval_cases k <;> decide, Bool.and_true]
  · rw [show (0xF00#12).getLsbD k = true by interval_cases k <;> first | omega | decide, Bool.and_true] at hp'
    rw [show (0x0FF#12).getLsbD k = false by interval_cases k <;> first | omega | decide, Bool.and_false, hp']

/-- The mask of group 8 keeps the group and the low nibble. -/
theorem mask_F00F_iff {iw p : Word} (hp : Field.nnn p &&& 0xFF0#12 = 0#12) :
    iw &&& 0xF00F#16 = p ↔ Field.group iw = Field.group p ∧ Field.n iw = Field.n p := by
  have hm : Field.group (iw &&& 0xF00F#16) = Field.group iw := by
    rw [group_and, show Field.group 0xF00F#16 = BitVec.allOnes 4 by decide, BitVec.and_allOnes]
  have hn : Field.n (iw &&& 0xF00F#16) = Field.n iw := by
    rw [n_and, show Field.n 0xF00F#16 = BitVec.allOnes 4 by decide, BitVec.and_allOnes]
  refine ⟨fun h => ⟨by rw [← hm, h], by rw [← hn, h]⟩, fun h => word_ext_nnn (hm.trans h.1) ?_⟩
  apply BitVec.eq_of_getLsbD_eq
  intro k hk
  have hk4 : ∀ j < 4, (Field.nnn iw).getLsbD j = (Field.nnn p).getLsbD j := fun j hj => by
    have := congrArg (BitVec.getLsbD · j) h.2
    simpa [Field.n, Field.nnn, hj, show j < 12 by omega] using this
  have hp' := congrArg (BitVec.getLsbD · k) hp
  rw [nnn_and, show Field.nnn 0xF00F#16 = 0x00F#12 by decide]
  simp only [BitVec.getLsbD_and, BitVec.getLsbD_zero] at hp' ⊢
  by_cases h4 : k < 4
  · rw [hk4 k h4, show (0x00F#12).getLsbD k = true by interval_cases k <;> decide, Bool.and_true]
  · rw [show (0xFF0#12).getLsbD k = true by interval_cases k <;> first | omega | decide, Bool.and_true] at hp'
    rw [show (0x00F#12).getLsbD k = false by interval_cases k <;> first | omega | decide, Bool.and_false, hp']

end Sys2Proof
end

