-- ==== Sys2Proof/Laws/Framebuffer.lean ====
section
/-! SUPPORT. The framebuffer cell by cell (10_state.md R33). -/

namespace Sys2Proof.Machine

/-- Two framebuffers with the same cells are the same. -/
theorem Framebuffer.ext_cell {f g : Framebuffer} (h : ∀ x y, f.cell x y = g.cell x y) : f = g := by
  refine Vector.ext fun y hy => BitVec.eq_of_getLsbD_eq fun x hx => ?_
  simpa [Framebuffer.cell] using h ⟨x, hx⟩ ⟨y, hy⟩

/-- A toggle flips its own cell and leaves every other. -/
theorem Framebuffer.cell_toggle (fb : Framebuffer) (x x' : Fin 64) (y y' : Fin 32) :
    (fb.toggle x y).cell x' y' = (fb.cell x' y' ^^ decide (x' = x ∧ y' = y)) := by
  simp only [Framebuffer.cell, Framebuffer.toggle, Fin.getElem_fin, Vector.getElem_set]
  by_cases hy : y = y'
  · subst hy
    simp [Fin.ext_iff, eq_comm]
  · have : y.val ≠ y'.val := fun h => hy (Fin.ext h)
    simp [this, Ne.symm hy]

@[simp] theorem Framebuffer.cell_clear (x : Fin 64) (y : Fin 32) : Framebuffer.clear.cell x y = false := by
  simp [Framebuffer.cell, Framebuffer.clear]

@[simp] theorem Drawing.pixel_fb (d : Drawing) (px : Fin 64) (py : Fin 32) : (d.pixel px py).fb = d.fb.toggle px py := rfl

@[simp] theorem Drawing.pixel_collision (d : Drawing) (px : Fin 64) (py : Fin 32) :
    (d.pixel px py).collision = (d.collision || d.fb.cell px py) := rfl

@[simp] theorem Drawing.sprite_nil (vx vy : Byte) (r : Nat) (d : Drawing) : Drawing.sprite vx vy r [] d = d := rfl

theorem Drawing.sprite_cons (vx vy : Byte) (r : Nat) (row : Byte) (rows : List Byte) (d : Drawing) :
    Drawing.sprite vx vy r (row :: rows) d = Drawing.sprite vx vy (r + 1) rows (d.row vx (spriteRow vy r) row) := rfl

theorem spriteColumn_val (vx : Byte) (c : Nat) : (spriteColumn vx c).val = (vx.toNat + c) % 64 := rfl

theorem spriteRow_val (vy : Byte) (r : Nat) : (spriteRow vy r).val = (vy.toNat + r) % 32 := rfl

/-- The 8 columns of a sprite row are distinct (43_display.md R192). -/
theorem spriteColumn_injective {vx : Byte} {c c' : Nat} (hc : c < 8) (hc' : c' < 8)
    (h : spriteColumn vx c = spriteColumn vx c') : c = c' := by
  have := congrArg Fin.val h
  simp only [spriteColumn_val] at this
  omega

/-- The rows of a sprite of at most 32 rows are distinct (43_display.md R192). -/
theorem spriteRow_injective {vy : Byte} {r r' : Nat} (hr : r < 32) (hr' : r' < 32)
    (h : spriteRow vy r = spriteRow vy r') : r = r' := by
  have := congrArg Fin.val h
  simp only [spriteRow_val] at this
  omega

end Sys2Proof.Machine
end

