-- ==== Sys2Proof/Laws/Memory.lean ====
section
/-! SUPPORT. Memory: what a read after a write gives, and that every operation keeps the canonical form. -/

namespace Sys2Proof.Machine

variable {font : Vector Byte 80}

theorem Memory.read_cons_of_ne {a b : Nat} {w : Byte} {m : List Host.Cell} (h : b ≠ a) :
    Memory.read font ((b, w) :: m) a = Memory.read font m a := by
  simp [Memory.read, h]

theorem Memory.wfFrom_cons {lo a : Nat} {v : Byte} {m : List Host.Cell} :
    Memory.wfFrom font lo ((a, v) :: m) = true ↔
      lo ≤ a ∧ a < 0x1000 ∧ v ≠ Memory.unlisted font a ∧ Memory.wfFrom font (a + 1) m = true := by
  simp [Memory.wfFrom, and_assoc]

theorem Memory.wfFrom_mono {lo lo' : Nat} (h : lo ≤ lo') {m : List Host.Cell} (hm : Memory.wfFrom font lo' m = true) :
    Memory.wfFrom font lo m = true := by
  cases m with
  | nil => rfl
  | cons c m =>
    obtain ⟨a, v⟩ := c
    rw [Memory.wfFrom_cons] at hm ⊢
    exact ⟨by omega, hm.2⟩

/-- An address below the lowest listed one reads as unlisted. -/
theorem Memory.read_below {lo a : Nat} {m : List Host.Cell} (hm : Memory.wfFrom font lo m = true) (h : a < lo) :
    Memory.read font m a = Memory.unlisted font a := by
  induction m generalizing lo with
  | nil => rfl
  | cons c m ih =>
    obtain ⟨b, w⟩ := c
    rw [Memory.wfFrom_cons] at hm
    rw [Memory.read_cons_of_ne (by omega)]
    exact ih hm.2.2.2 (by omega)

/-- `Memory.cons` reads its cell as `v` when the rest lies above it. -/
theorem Memory.read_cons_self {a : Nat} {v : Byte} {m : List Host.Cell} (hm : Memory.wfFrom font (a + 1) m = true) :
    Memory.read font (Memory.cons font a v m) a = v := by
  unfold Memory.cons
  split
  · next h => rw [Memory.read_below hm (by omega), h]
  · simp [Memory.read]

theorem Memory.read_cons_other {a b : Nat} {v : Byte} {m : List Host.Cell} (h : b ≠ a) :
    Memory.read font (Memory.cons font a v m) b = Memory.read font m b := by
  unfold Memory.cons
  split
  · rfl
  · exact Memory.read_cons_of_ne (by omega)

theorem Memory.wfFrom_cons_cell {lo a : Nat} {v : Byte} {m : List Host.Cell} (hlo : lo ≤ a) (ha : a < 0x1000)
    (hm : Memory.wfFrom font (a + 1) m = true) : Memory.wfFrom font lo (Memory.cons font a v m) = true := by
  unfold Memory.cons
  split
  · exact Memory.wfFrom_mono (by omega) hm
  · next h => exact Memory.wfFrom_cons.2 ⟨hlo, ha, h, hm⟩

/-- Read after write to the same address. -/
theorem Memory.read_write_self {lo a : Nat} {v : Byte} {m : List Host.Cell} (hm : Memory.wfFrom font lo m = true) :
    Memory.read font (Memory.write font a v m) a = v := by
  induction m generalizing lo with
  | nil => exact Memory.read_cons_self rfl
  | cons c m ih =>
    obtain ⟨b, w⟩ := c
    have hb := Memory.wfFrom_cons.1 hm
    unfold Memory.write
    split
    · next h => exact Memory.read_cons_self (Memory.wfFrom_cons.2 ⟨by omega, hb.2⟩)
    · split
      · next h => subst h; exact Memory.read_cons_self hb.2.2.2
      · rw [Memory.read_cons_of_ne (by omega)]
        exact ih hb.2.2.2

/-- A write leaves every other address alone. -/
theorem Memory.read_write_other {a b : Nat} {v : Byte} {m : List Host.Cell} (h : b ≠ a) :
    Memory.read font (Memory.write font a v m) b = Memory.read font m b := by
  induction m with
  | nil => exact Memory.read_cons_other h
  | cons c m ih =>
    obtain ⟨d, w⟩ := c
    unfold Memory.write
    split
    · exact Memory.read_cons_other h
    · split
      · next hd => rw [Memory.read_cons_other h, Memory.read_cons_of_ne (by omega)]
      · simp only [Memory.read, ih]

theorem Memory.wfFrom_write {lo a : Nat} {v : Byte} {m : List Host.Cell} (hlo : lo ≤ a) (ha : a < 0x1000)
    (hm : Memory.wfFrom font lo m = true) : Memory.wfFrom font lo (Memory.write font a v m) = true := by
  induction m generalizing lo with
  | nil => exact Memory.wfFrom_cons_cell hlo ha rfl
  | cons c m ih =>
    obtain ⟨b, w⟩ := c
    have hb := Memory.wfFrom_cons.1 hm
    unfold Memory.write
    split
    · exact Memory.wfFrom_cons_cell hlo ha (Memory.wfFrom_cons.2 ⟨by omega, hb.2⟩)
    · split
      · next h => subst h; exact Memory.wfFrom_cons_cell hlo ha hb.2.2.2
      · exact Memory.wfFrom_cons.2 ⟨hb.1, hb.2.1, hb.2.2.1, ih (by omega) hb.2.2.2⟩

/-- Writing one byte inside memory keeps the canonical form. -/
theorem Memory.wf_write {a : Nat} {v : Byte} {m : List Host.Cell} (ha : a < 0x1000) (hm : Memory.wf font m = true) :
    Memory.wf font (Memory.write font a v m) = true :=
  Memory.wfFrom_write (Nat.zero_le a) ha hm

/-- Writing consecutive bytes inside memory keeps the canonical form. -/
theorem Memory.wf_writeBytes {bs : List Byte} {a : Nat} {m : List Host.Cell} (ha : bs = [] ∨ a + bs.length ≤ 0x1000)
    (hm : Memory.wf font m = true) : Memory.wf font (Memory.writeBytes font a bs m) = true := by
  induction bs generalizing a m with
  | nil => exact hm
  | cons b bs ih =>
    simp only [reduceCtorEq, List.length_cons, false_or] at ha
    exact ih (.inr (by omega)) (Memory.wf_write (by omega) hm)

/-- Outside the bytes written, every address reads as before. -/
theorem Memory.read_writeBytes_other {bs : List Byte} {a b : Nat} {m : List Host.Cell} (h : b < a ∨ a + bs.length ≤ b) :
    Memory.read font (Memory.writeBytes font a bs m) b = Memory.read font m b := by
  induction bs generalizing a m with
  | nil => rfl
  | cons c bs ih =>
    simp only [List.length_cons] at h
    rw [Memory.writeBytes, ih (by omega), Memory.read_write_other (by omega)]

/-- Inside, address `a + k` reads byte `k`. -/
theorem Memory.read_writeBytes_inside {bs : List Byte} {a k : Nat} {m : List Host.Cell} (hm : Memory.wf font m = true)
    (ha : a + bs.length ≤ 0x1000) (hk : k < bs.length) :
    Memory.read font (Memory.writeBytes font a bs m) (a + k) = bs[k] := by
  induction bs generalizing a k m with
  | nil => simp at hk
  | cons c bs ih =>
    simp only [List.length_cons] at ha hk
    rw [Memory.writeBytes]
    cases k with
    | zero => rw [Memory.read_writeBytes_other (by omega)]; exact Memory.read_write_self (lo := 0) hm
    | succ k =>
      rw [show a + (k + 1) = a + 1 + k by omega, ih (Memory.wf_write (by omega) hm) (by omega) (by omega)]
      simp

@[simp] theorem Memory.length_readBytes (m : List Host.Cell) (a n : Nat) :
    (Memory.readBytes font m a n).length = n := by
  induction n generalizing a with
  | zero => rfl
  | succ n ih => simp [Memory.readBytes, ih]

/-- Byte `k` of a block read is the byte at `a + k`. -/
theorem Memory.getElem_readBytes {m : List Host.Cell} {a n k : Nat} (hk : k < (Memory.readBytes font m a n).length) :
    (Memory.readBytes font m a n)[k] = Memory.read font m (a + k) := by
  induction n generalizing a k with
  | zero => simp [Memory.readBytes] at hk
  | succ n ih =>
    cases k with
    | zero => rfl
    | succ k =>
      have := ih (a := a + 1) (k := k) (by simpa [Memory.readBytes] using hk)
      simpa [Memory.readBytes, show a + 1 + k = a + (k + 1) by omega] using this

end Sys2Proof.Machine
end

