-- ==== Sys2Proof/Laws/State.lean ====
section
/-! SUPPORT. One lemma per field per update of the state, so that no proof unfolds a record update. -/

namespace Sys2Proof.Machine

variable (s : State)

/-! ### `setReg`: V[x] <- b -/

@[simp] theorem State.setReg_v (x : RegIdx) (b : Byte) : (s.setReg x b).v = s.v.set x.val b := rfl
@[simp] theorem State.setReg_i (x : RegIdx) (b : Byte) : (s.setReg x b).i = s.i := rfl
@[simp] theorem State.setReg_pc (x : RegIdx) (b : Byte) : (s.setReg x b).pc = s.pc := rfl
@[simp] theorem State.setReg_sp (x : RegIdx) (b : Byte) : (s.setReg x b).sp = s.sp := rfl
@[simp] theorem State.setReg_stack (x : RegIdx) (b : Byte) : (s.setReg x b).stack = s.stack := rfl
@[simp] theorem State.setReg_dt (x : RegIdx) (b : Byte) : (s.setReg x b).dt = s.dt := rfl
@[simp] theorem State.setReg_st (x : RegIdx) (b : Byte) : (s.setReg x b).st = s.st := rfl
@[simp] theorem State.setReg_keys (x : RegIdx) (b : Byte) : (s.setReg x b).keys = s.keys := rfl
@[simp] theorem State.setReg_fb (x : RegIdx) (b : Byte) : (s.setReg x b).fb = s.fb := rfl
@[simp] theorem State.setReg_halt (x : RegIdx) (b : Byte) : (s.setReg x b).halt = s.halt := rfl
@[simp] theorem State.setReg_faultKind (x : RegIdx) (b : Byte) : (s.setReg x b).faultKind = s.faultKind := rfl
@[simp] theorem State.setReg_faultAddr (x : RegIdx) (b : Byte) : (s.setReg x b).faultAddr = s.faultAddr := rfl
@[simp] theorem State.setReg_memory (x : RegIdx) (b : Byte) : (s.setReg x b).memory = s.memory := rfl
@[simp] theorem State.setReg_font (x : RegIdx) (b : Byte) : (s.setReg x b).font = s.font := rfl
@[simp] theorem State.setReg_randomDraws (x : RegIdx) (b : Byte) : (s.setReg x b).randomDraws = s.randomDraws := rfl

/-! ### `setFlag`: VF <- b -/

@[simp] theorem State.setFlag_v (b : Byte) : (s.setFlag b).v = s.v.set 15 b := rfl
@[simp] theorem State.setFlag_i (b : Byte) : (s.setFlag b).i = s.i := rfl
@[simp] theorem State.setFlag_pc (b : Byte) : (s.setFlag b).pc = s.pc := rfl
@[simp] theorem State.setFlag_sp (b : Byte) : (s.setFlag b).sp = s.sp := rfl
@[simp] theorem State.setFlag_stack (b : Byte) : (s.setFlag b).stack = s.stack := rfl
@[simp] theorem State.setFlag_dt (b : Byte) : (s.setFlag b).dt = s.dt := rfl
@[simp] theorem State.setFlag_st (b : Byte) : (s.setFlag b).st = s.st := rfl
@[simp] theorem State.setFlag_keys (b : Byte) : (s.setFlag b).keys = s.keys := rfl
@[simp] theorem State.setFlag_fb (b : Byte) : (s.setFlag b).fb = s.fb := rfl
@[simp] theorem State.setFlag_halt (b : Byte) : (s.setFlag b).halt = s.halt := rfl
@[simp] theorem State.setFlag_faultKind (b : Byte) : (s.setFlag b).faultKind = s.faultKind := rfl
@[simp] theorem State.setFlag_faultAddr (b : Byte) : (s.setFlag b).faultAddr = s.faultAddr := rfl
@[simp] theorem State.setFlag_memory (b : Byte) : (s.setFlag b).memory = s.memory := rfl
@[simp] theorem State.setFlag_font (b : Byte) : (s.setFlag b).font = s.font := rfl
@[simp] theorem State.setFlag_randomDraws (b : Byte) : (s.setFlag b).randomDraws = s.randomDraws := rfl

/-! ### `advance`: the default advance -/

@[simp] theorem State.advance_v : (s.advance).v = s.v := rfl
@[simp] theorem State.advance_i : (s.advance).i = s.i := rfl
@[simp] theorem State.advance_pc : (s.advance).pc = s.pc + 2#16 := rfl
@[simp] theorem State.advance_sp : (s.advance).sp = s.sp := rfl
@[simp] theorem State.advance_stack : (s.advance).stack = s.stack := rfl
@[simp] theorem State.advance_dt : (s.advance).dt = s.dt := rfl
@[simp] theorem State.advance_st : (s.advance).st = s.st := rfl
@[simp] theorem State.advance_keys : (s.advance).keys = s.keys := rfl
@[simp] theorem State.advance_fb : (s.advance).fb = s.fb := rfl
@[simp] theorem State.advance_halt : (s.advance).halt = s.halt := rfl
@[simp] theorem State.advance_faultKind : (s.advance).faultKind = s.faultKind := rfl
@[simp] theorem State.advance_faultAddr : (s.advance).faultAddr = s.faultAddr := rfl
@[simp] theorem State.advance_memory : (s.advance).memory = s.memory := rfl
@[simp] theorem State.advance_font : (s.advance).font = s.font := rfl
@[simp] theorem State.advance_randomDraws : (s.advance).randomDraws = s.randomDraws := rfl

/-! ### `skipIf`: the conditional skip -/

@[simp] theorem State.skipIf_v (c : Bool) : (s.skipIf c).v = s.v := rfl
@[simp] theorem State.skipIf_i (c : Bool) : (s.skipIf c).i = s.i := rfl
@[simp] theorem State.skipIf_pc (c : Bool) : (s.skipIf c).pc = if c then s.pc + 4#16 else s.pc + 2#16 := rfl
@[simp] theorem State.skipIf_sp (c : Bool) : (s.skipIf c).sp = s.sp := rfl
@[simp] theorem State.skipIf_stack (c : Bool) : (s.skipIf c).stack = s.stack := rfl
@[simp] theorem State.skipIf_dt (c : Bool) : (s.skipIf c).dt = s.dt := rfl
@[simp] theorem State.skipIf_st (c : Bool) : (s.skipIf c).st = s.st := rfl
@[simp] theorem State.skipIf_keys (c : Bool) : (s.skipIf c).keys = s.keys := rfl
@[simp] theorem State.skipIf_fb (c : Bool) : (s.skipIf c).fb = s.fb := rfl
@[simp] theorem State.skipIf_halt (c : Bool) : (s.skipIf c).halt = s.halt := rfl
@[simp] theorem State.skipIf_faultKind (c : Bool) : (s.skipIf c).faultKind = s.faultKind := rfl
@[simp] theorem State.skipIf_faultAddr (c : Bool) : (s.skipIf c).faultAddr = s.faultAddr := rfl
@[simp] theorem State.skipIf_memory (c : Bool) : (s.skipIf c).memory = s.memory := rfl
@[simp] theorem State.skipIf_font (c : Bool) : (s.skipIf c).font = s.font := rfl
@[simp] theorem State.skipIf_randomDraws (c : Bool) : (s.skipIf c).randomDraws = s.randomDraws := rfl

/-! ### `jump`: a control transfer -/

@[simp] theorem State.jump_v (w : Word) : (s.jump w).v = s.v := rfl
@[simp] theorem State.jump_i (w : Word) : (s.jump w).i = s.i := rfl
@[simp] theorem State.jump_pc (w : Word) : (s.jump w).pc = w := rfl
@[simp] theorem State.jump_sp (w : Word) : (s.jump w).sp = s.sp := rfl
@[simp] theorem State.jump_stack (w : Word) : (s.jump w).stack = s.stack := rfl
@[simp] theorem State.jump_dt (w : Word) : (s.jump w).dt = s.dt := rfl
@[simp] theorem State.jump_st (w : Word) : (s.jump w).st = s.st := rfl
@[simp] theorem State.jump_keys (w : Word) : (s.jump w).keys = s.keys := rfl
@[simp] theorem State.jump_fb (w : Word) : (s.jump w).fb = s.fb := rfl
@[simp] theorem State.jump_halt (w : Word) : (s.jump w).halt = s.halt := rfl
@[simp] theorem State.jump_faultKind (w : Word) : (s.jump w).faultKind = s.faultKind := rfl
@[simp] theorem State.jump_faultAddr (w : Word) : (s.jump w).faultAddr = s.faultAddr := rfl
@[simp] theorem State.jump_memory (w : Word) : (s.jump w).memory = s.memory := rfl
@[simp] theorem State.jump_font (w : Word) : (s.jump w).font = s.font := rfl
@[simp] theorem State.jump_randomDraws (w : Word) : (s.jump w).randomDraws = s.randomDraws := rfl

/-! ### `storeBytes`: stores to memory -/

@[simp] theorem State.storeBytes_v (a : Nat) (bs : List Byte) : (s.storeBytes a bs).v = s.v := rfl
@[simp] theorem State.storeBytes_i (a : Nat) (bs : List Byte) : (s.storeBytes a bs).i = s.i := rfl
@[simp] theorem State.storeBytes_pc (a : Nat) (bs : List Byte) : (s.storeBytes a bs).pc = s.pc := rfl
@[simp] theorem State.storeBytes_sp (a : Nat) (bs : List Byte) : (s.storeBytes a bs).sp = s.sp := rfl
@[simp] theorem State.storeBytes_stack (a : Nat) (bs : List Byte) : (s.storeBytes a bs).stack = s.stack := rfl
@[simp] theorem State.storeBytes_dt (a : Nat) (bs : List Byte) : (s.storeBytes a bs).dt = s.dt := rfl
@[simp] theorem State.storeBytes_st (a : Nat) (bs : List Byte) : (s.storeBytes a bs).st = s.st := rfl
@[simp] theorem State.storeBytes_keys (a : Nat) (bs : List Byte) : (s.storeBytes a bs).keys = s.keys := rfl
@[simp] theorem State.storeBytes_fb (a : Nat) (bs : List Byte) : (s.storeBytes a bs).fb = s.fb := rfl
@[simp] theorem State.storeBytes_halt (a : Nat) (bs : List Byte) : (s.storeBytes a bs).halt = s.halt := rfl
@[simp] theorem State.storeBytes_faultKind (a : Nat) (bs : List Byte) : (s.storeBytes a bs).faultKind = s.faultKind := rfl
@[simp] theorem State.storeBytes_faultAddr (a : Nat) (bs : List Byte) : (s.storeBytes a bs).faultAddr = s.faultAddr := rfl
@[simp] theorem State.storeBytes_memory (a : Nat) (bs : List Byte) : (s.storeBytes a bs).memory = Memory.writeBytes s.font a bs s.memory := rfl
@[simp] theorem State.storeBytes_font (a : Nat) (bs : List Byte) : (s.storeBytes a bs).font = s.font := rfl
@[simp] theorem State.storeBytes_randomDraws (a : Nat) (bs : List Byte) : (s.storeBytes a bs).randomDraws = s.randomDraws := rfl

/-! ### `setRegsUpTo`: the register range of Fx65 -/

@[simp] theorem State.setRegsUpTo_v (x : RegIdx) (bs : List Byte) : (s.setRegsUpTo x bs).v = Vector.ofFn fun k : Fin 16 => if k ≤ x then bs.getD k.val 0#8 else s.v[k] := rfl
@[simp] theorem State.setRegsUpTo_i (x : RegIdx) (bs : List Byte) : (s.setRegsUpTo x bs).i = s.i := rfl
@[simp] theorem State.setRegsUpTo_pc (x : RegIdx) (bs : List Byte) : (s.setRegsUpTo x bs).pc = s.pc := rfl
@[simp] theorem State.setRegsUpTo_sp (x : RegIdx) (bs : List Byte) : (s.setRegsUpTo x bs).sp = s.sp := rfl
@[simp] theorem State.setRegsUpTo_stack (x : RegIdx) (bs : List Byte) : (s.setRegsUpTo x bs).stack = s.stack := rfl
@[simp] theorem State.setRegsUpTo_dt (x : RegIdx) (bs : List Byte) : (s.setRegsUpTo x bs).dt = s.dt := rfl
@[simp] theorem State.setRegsUpTo_st (x : RegIdx) (bs : List Byte) : (s.setRegsUpTo x bs).st = s.st := rfl
@[simp] theorem State.setRegsUpTo_keys (x : RegIdx) (bs : List Byte) : (s.setRegsUpTo x bs).keys = s.keys := rfl
@[simp] theorem State.setRegsUpTo_fb (x : RegIdx) (bs : List Byte) : (s.setRegsUpTo x bs).fb = s.fb := rfl
@[simp] theorem State.setRegsUpTo_halt (x : RegIdx) (bs : List Byte) : (s.setRegsUpTo x bs).halt = s.halt := rfl
@[simp] theorem State.setRegsUpTo_faultKind (x : RegIdx) (bs : List Byte) : (s.setRegsUpTo x bs).faultKind = s.faultKind := rfl
@[simp] theorem State.setRegsUpTo_faultAddr (x : RegIdx) (bs : List Byte) : (s.setRegsUpTo x bs).faultAddr = s.faultAddr := rfl
@[simp] theorem State.setRegsUpTo_memory (x : RegIdx) (bs : List Byte) : (s.setRegsUpTo x bs).memory = s.memory := rfl
@[simp] theorem State.setRegsUpTo_font (x : RegIdx) (bs : List Byte) : (s.setRegsUpTo x bs).font = s.font := rfl
@[simp] theorem State.setRegsUpTo_randomDraws (x : RegIdx) (bs : List Byte) : (s.setRegsUpTo x bs).randomDraws = s.randomDraws := rfl

/-! ### `sampled`: one sample of the random source -/

@[simp] theorem State.sampled_v : (s.sampled).v = s.v := rfl
@[simp] theorem State.sampled_i : (s.sampled).i = s.i := rfl
@[simp] theorem State.sampled_pc : (s.sampled).pc = s.pc := rfl
@[simp] theorem State.sampled_sp : (s.sampled).sp = s.sp := rfl
@[simp] theorem State.sampled_stack : (s.sampled).stack = s.stack := rfl
@[simp] theorem State.sampled_dt : (s.sampled).dt = s.dt := rfl
@[simp] theorem State.sampled_st : (s.sampled).st = s.st := rfl
@[simp] theorem State.sampled_keys : (s.sampled).keys = s.keys := rfl
@[simp] theorem State.sampled_fb : (s.sampled).fb = s.fb := rfl
@[simp] theorem State.sampled_halt : (s.sampled).halt = s.halt := rfl
@[simp] theorem State.sampled_faultKind : (s.sampled).faultKind = s.faultKind := rfl
@[simp] theorem State.sampled_faultAddr : (s.sampled).faultAddr = s.faultAddr := rfl
@[simp] theorem State.sampled_memory : (s.sampled).memory = s.memory := rfl
@[simp] theorem State.sampled_font : (s.sampled).font = s.font := rfl
@[simp] theorem State.sampled_randomDraws : (s.sampled).randomDraws = s.randomDraws + 1 := rfl

/-! ### `takeFault`: HALT, FAULT_KIND, FAULT_ADDR (60_exceptions.md R226) -/

@[simp] theorem takeFault_v (e : Fault) : (takeFault e s).v = s.v := rfl
@[simp] theorem takeFault_i (e : Fault) : (takeFault e s).i = s.i := rfl
@[simp] theorem takeFault_pc (e : Fault) : (takeFault e s).pc = s.pc := rfl
@[simp] theorem takeFault_sp (e : Fault) : (takeFault e s).sp = s.sp := rfl
@[simp] theorem takeFault_stack (e : Fault) : (takeFault e s).stack = s.stack := rfl
@[simp] theorem takeFault_dt (e : Fault) : (takeFault e s).dt = s.dt := rfl
@[simp] theorem takeFault_st (e : Fault) : (takeFault e s).st = s.st := rfl
@[simp] theorem takeFault_keys (e : Fault) : (takeFault e s).keys = s.keys := rfl
@[simp] theorem takeFault_fb (e : Fault) : (takeFault e s).fb = s.fb := rfl
@[simp] theorem takeFault_halt (e : Fault) : (takeFault e s).halt = true := rfl
@[simp] theorem takeFault_faultKind (e : Fault) : (takeFault e s).faultKind = e.kind := rfl
@[simp] theorem takeFault_faultAddr (e : Fault) : (takeFault e s).faultAddr = e.address := rfl
@[simp] theorem takeFault_memory (e : Fault) : (takeFault e s).memory = s.memory := rfl
@[simp] theorem takeFault_font (e : Fault) : (takeFault e s).font = s.font := rfl
@[simp] theorem takeFault_randomDraws (e : Fault) : (takeFault e s).randomDraws = s.randomDraws := rfl

end Sys2Proof.Machine
end

