-- ==== Sys2Proof/Laws/Ops.lean ====
section
/-! SUPPORT. One lemma per shared operation that says once everything it can do. -/

namespace Sys2Proof.Machine

variable (s : State)

/-! ### Registers -/

/-- Reading a register after writing one. -/
theorem State.reg_setReg (x r : RegIdx) (b : Byte) : (s.setReg x b).reg r = if r = x then b else s.reg r := by
  simp only [State.reg, State.setReg, Fin.getElem_fin, Vector.getElem_set, Fin.ext_iff, eq_comm (a := r.val)]

@[simp] theorem State.reg_setReg_self (x : RegIdx) (b : Byte) : (s.setReg x b).reg x = b := by simp [State.reg_setReg]

theorem State.reg_setReg_other {x r : RegIdx} (h : r ≠ x) (b : Byte) : (s.setReg x b).reg r = s.reg r := by
  simp [State.reg_setReg, h]

/-- Writing the flag writes VF. -/
theorem State.setFlag_eq (b : Byte) : s.setFlag b = s.setReg 15 b := rfl

@[simp] theorem State.reg_advance (r : RegIdx) : s.advance.reg r = s.reg r := rfl
@[simp] theorem State.reg_skipIf (r : RegIdx) (c : Bool) : (s.skipIf c).reg r = s.reg r := rfl
@[simp] theorem State.reg_jump (r : RegIdx) (w : Word) : (s.jump w).reg r = s.reg r := rfl
@[simp] theorem State.reg_storeBytes (r : RegIdx) (a : Nat) (bs : List Byte) : (s.storeBytes a bs).reg r = s.reg r := rfl
@[simp] theorem State.reg_sampled (r : RegIdx) : s.sampled.reg r = s.reg r := rfl
@[simp] theorem takeFault_reg (r : RegIdx) (e : Fault) : (takeFault e s).reg r = s.reg r := rfl

/-- Reading a register after the range write of Fx65. -/
theorem State.reg_setRegsUpTo (x r : RegIdx) (bs : List Byte) :
    (s.setRegsUpTo x bs).reg r = if r ≤ x then bs.getD r.val 0#8 else s.reg r := by
  simp [State.reg, State.setRegsUpTo]

/-- Byte `k` of the registers V0 to Vx is V[k]. -/
theorem State.length_regsUpTo (x : RegIdx) : (s.regsUpTo x).length = x.val + 1 := by
  simp [State.regsUpTo]

theorem State.getElem_regsUpTo (x : RegIdx) (k : Nat) (hk : k < (s.regsUpTo x).length) :
    (s.regsUpTo x)[k] = s.reg ⟨k, by rw [State.length_regsUpTo] at hk; omega⟩ := by
  simp [State.regsUpTo, State.reg]

/-! ### Memory through the state -/

@[simp] theorem State.readByte_setReg (x : RegIdx) (b : Byte) (a : Nat) : (s.setReg x b).readByte a = s.readByte a := rfl
@[simp] theorem State.readByte_setFlag (b : Byte) (a : Nat) : (s.setFlag b).readByte a = s.readByte a := rfl
@[simp] theorem State.readByte_advance (a : Nat) : s.advance.readByte a = s.readByte a := rfl
@[simp] theorem State.readByte_setRegsUpTo (x : RegIdx) (bs : List Byte) (a : Nat) :
    (s.setRegsUpTo x bs).readByte a = s.readByte a := rfl
@[simp] theorem takeFault_readByte (e : Fault) (a : Nat) : (takeFault e s).readByte a = s.readByte a := rfl

theorem State.readByte_storeBytes_other {bs : List Byte} {a b : Nat} (h : b < a ∨ a + bs.length ≤ b) :
    (s.storeBytes a bs).readByte b = s.readByte b :=
  Memory.read_writeBytes_other h

theorem State.readByte_storeBytes_inside {bs : List Byte} {a k : Nat} (hs : Memory.wf s.font s.memory = true)
    (ha : a + bs.length ≤ 0x1000) (hk : k < bs.length) : (s.storeBytes a bs).readByte (a + k) = bs[k] :=
  Memory.read_writeBytes_inside hs ha hk

@[simp] theorem State.length_loadBytes (a n : Nat) : (s.loadBytes a n).length = n := Memory.length_readBytes _ _ _

theorem State.getElem_loadBytes {a n k : Nat} (hk : k < (s.loadBytes a n).length) :
    (s.loadBytes a n)[k] = s.readByte (a + k) :=
  Memory.getElem_readBytes hk

/-! ### The range check and a checked access (20_memory.md R63) -/

theorem rangeFits_iff (base : Word) (n : Nat) : rangeFits base n = true ↔ n = 0 ∨ base.toNat + n ≤ 0x1000 := by
  simp [rangeFits]

/-- The reported address is the greater of `base` and 0x1000 (60_exceptions.md R229). -/
theorem offendingAddress_toNat (base : Word) : (offendingAddress base).toNat = max base.toNat 0x1000 := by
  unfold offendingAddress
  split <;> simp <;> omega

theorem withAccess_fits {base : Word} {n : Nat} (h : n = 0 ∨ base.toNat + n ≤ 0x1000) (e : State) :
    withAccess base n s e = .next e := by
  simp [withAccess, rangeFits_iff, h]

theorem withAccess_exceeds {base : Word} {n : Nat} (h : ¬(n = 0 ∨ base.toNat + n ≤ 0x1000)) (e : State) :
    withAccess base n s e = .next (takeFault (.outOfBounds (offendingAddress base)) s) := by
  simp [withAccess, rangeFits_iff, h]

/-- Everything a checked access can answer. -/
theorem withAccess_cases {base : Word} {n : Nat} {e : State} {t : State} (h : withAccess base n s e = .next t) :
    ((n = 0 ∨ base.toNat + n ≤ 0x1000) ∧ t = e) ∨
    (¬(n = 0 ∨ base.toNat + n ≤ 0x1000) ∧ t = takeFault (.outOfBounds (offendingAddress base)) s) := by
  by_cases hr : n = 0 ∨ base.toNat + n ≤ 0x1000
  · rw [withAccess_fits s hr] at h; exact .inl ⟨hr, (Host.Outcome.next.inj h).symm⟩
  · rw [withAccess_exceeds s hr] at h; exact .inr ⟨hr, (Host.Outcome.next.inj h).symm⟩

/-! ### Call stack -/

/-- A push below the limit. -/
theorem State.push_of_lt (w : Word) (h : s.sp.val < 16) :
    s.push w = some { s with stack := s.stack.set s.sp.val w, sp := ⟨s.sp.val + 1, by omega⟩ } := by
  simp [State.push, h]

/-- A push at the limit. -/
theorem State.push_full (w : Word) (h : s.sp = 16) : s.push w = none := by
  simp [State.push, h]

/-- A pop of a non-empty stack. -/
theorem State.pop_of_pos (h : 0 < s.sp.val) :
    s.pop = some (s.stack[s.sp.val - 1], { s with sp := ⟨s.sp.val - 1, by omega⟩ }) := by
  simp only [State.pop, h, ↓reduceDIte]

/-- A pop of an empty stack. -/
theorem State.pop_empty (h : s.sp = 0) : s.pop = none := by
  simp [State.pop, h]

/-- A push changes the stack and SP only, to the entry at SP. -/
theorem State.push_cases {w : Word} {t : State} (h : s.push w = some t) :
    ∃ hs : s.sp.val < 16, t = { s with stack := s.stack.set s.sp.val w, sp := ⟨s.sp.val + 1, by omega⟩ } := by
  unfold State.push at h
  split at h
  · next hs => exact ⟨hs, (Option.some.inj h).symm⟩
  · simp at h

/-- A pop changes SP only, and answers the entry below it. -/
theorem State.pop_cases {w : Word} {t : State} (h : s.pop = some (w, t)) :
    ∃ hs : 0 < s.sp.val, w = s.stack[s.sp.val - 1] ∧ t = { s with sp := ⟨s.sp.val - 1, by omega⟩ } := by
  unfold State.pop at h
  split at h
  · next hs => simp only [Option.some.injEq, Prod.mk.injEq] at h; exact ⟨hs, h.1.symm, h.2.symm⟩
  · simp at h

/-! ### Keypad -/

/-- No key is found exactly when none is pressed. -/
theorem State.lowestKey_eq_none : s.lowestKey = none ↔ ∀ k, s.key k = false := by
  simp [State.lowestKey]

/-- The key found is pressed. -/
theorem State.lowestKey_pressed {k : Fin 16} (h : s.lowestKey = some k) : s.key k = true :=
  List.find?_some h

/-! ### Fetch -/

theorem State.fetch_of_le (h : s.pc.toNat ≤ 0xFFE) : s.fetch = some s.fetchWord := by
  simp [State.fetch, State.canFetch, h]

theorem State.fetch_of_gt (h : 0xFFE < s.pc.toNat) : s.fetch = none := by
  simp [State.fetch, State.canFetch]; omega

theorem State.fetch_cases (iw : Word) : s.fetch = some iw ↔ s.pc.toNat ≤ 0xFFE ∧ iw = s.fetchWord := by
  unfold State.fetch State.canFetch
  split <;> simp_all [eq_comm]

/-- The word is the high byte times 256 plus the low byte (20_memory.md R67). -/
theorem wordOfBytes_toNat (b0 b1 : Byte) : (wordOfBytes b0 b1).toNat = 256 * b0.toNat + b1.toNat := by
  have h1 := b1.isLt
  simp only [wordOfBytes, BitVec.toNat_append]
  rw [← Nat.shiftLeft_add_eq_or_of_lt h1, Nat.shiftLeft_eq]
  omega

/-! ### Flags -/

theorem flagByte_eq_one_iff (c : Bool) : flagByte c = 1#8 ↔ c = true := by cases c <;> decide
theorem flagByte_eq_zero_iff (c : Bool) : flagByte c = 0#8 ↔ c = false := by cases c <;> decide
theorem flagByte_zero_or_one (c : Bool) : flagByte c = 0#8 ∨ flagByte c = 1#8 := by cases c <;> decide

end Sys2Proof.Machine
end

