-- ==== Sys2Proof/Laws/PerInstr.lean ====
section
/-! SUPPORT. One lemma per constructor of Instr: the encoded word agrees with its row of the opcode table (30_encoding.md R102). -/

namespace Sys2Proof.Laws.Table

/-- The encoded word selects its own row: `w & mask = match` (R102). -/
def Statement (i : Instr) : Prop := encode i &&& i.mask = i.matchBits

theorem nnnRow {g : BitVec 4} {nnn : BitVec 12} {p : Word} (hp : Field.nnn p = 0#12) (hg : Field.group p = g) :
    formatNNN g nnn &&& 0xF000#16 = p :=
  (mask_F000_iff hp).2 (by rw [group_formatNNN, hg])

theorem xnnRow {g : BitVec 4} {x : RegIdx} {nn : Byte} {p : Word} (hp : Field.nnn p = 0#12) (hg : Field.group p = g) :
    formatXNN g x nn &&& 0xF000#16 = p :=
  (mask_F000_iff hp).2 (by rw [group_formatXNN, hg])

theorem xynRow {g : BitVec 4} {x y : RegIdx} {n : BitVec 4} {p : Word} (hp : Field.nnn p = 0#12)
    (hg : Field.group p = g) : formatXYN g x y n &&& 0xF000#16 = p :=
  (mask_F000_iff hp).2 (by rw [group_formatXYN, hg])

theorem xyfRow {g : BitVec 4} {x y : RegIdx} {n : BitVec 4} {p : Word} (hp : Field.nnn p &&& 0xFF0#12 = 0#12)
    (hg : Field.group p = g) (hn : Field.n p = n) : formatXYN g x y n &&& 0xF00F#16 = p :=
  (mask_F00F_iff hp).2 ⟨by rw [group_formatXYN, hg], by rw [n_formatXYN, hn]⟩

theorem xkkRow {g : BitVec 4} {x : RegIdx} {nn : Byte} {p : Word} (hp : Field.nnn p &&& 0xF00#12 = 0#12)
    (hg : Field.group p = g) (hn : Field.nn p = nn) : formatXNN g x nn &&& 0xF0FF#16 = p :=
  (mask_F0FF_iff hp).2 ⟨by rw [group_formatXNN, hg], by rw [nn_formatXNN, hn]⟩

theorem cls : Statement (.cls) :=
  show 0x00E0#16 &&& 0xF0FF#16 = 0x00E0#16 by decide
theorem ret : Statement (.ret) :=
  show 0x00EE#16 &&& 0xF0FF#16 = 0x00EE#16 by decide
theorem jp (nnn : BitVec 12) : Statement (.jp nnn) := nnnRow (p := 0x1000#16) (by decide) (by decide)
theorem call (nnn : BitVec 12) : Statement (.call nnn) := nnnRow (p := 0x2000#16) (by decide) (by decide)
theorem seImm (x : RegIdx) (nn : Byte) : Statement (.seImm x nn) := xnnRow (p := 0x3000#16) (by decide) (by decide)
theorem sneImm (x : RegIdx) (nn : Byte) : Statement (.sneImm x nn) := xnnRow (p := 0x4000#16) (by decide) (by decide)
theorem seReg (x y : RegIdx) : Statement (.seReg x y) := xynRow (p := 0x5000#16) (by decide) (by decide)
theorem ldImm (x : RegIdx) (nn : Byte) : Statement (.ldImm x nn) := xnnRow (p := 0x6000#16) (by decide) (by decide)
theorem addImm (x : RegIdx) (nn : Byte) : Statement (.addImm x nn) := xnnRow (p := 0x7000#16) (by decide) (by decide)
theorem ldReg (x y : RegIdx) : Statement (.ldReg x y) := xyfRow (p := 0x8000#16) (by decide) (by decide) (by decide)
theorem orReg (x y : RegIdx) : Statement (.orReg x y) := xyfRow (p := 0x8001#16) (by decide) (by decide) (by decide)
theorem andReg (x y : RegIdx) : Statement (.andReg x y) := xyfRow (p := 0x8002#16) (by decide) (by decide) (by decide)
theorem xorReg (x y : RegIdx) : Statement (.xorReg x y) := xyfRow (p := 0x8003#16) (by decide) (by decide) (by decide)
theorem addReg (x y : RegIdx) : Statement (.addReg x y) := xyfRow (p := 0x8004#16) (by decide) (by decide) (by decide)
theorem sub (x y : RegIdx) : Statement (.sub x y) := xyfRow (p := 0x8005#16) (by decide) (by decide) (by decide)
theorem shr (x y : RegIdx) : Statement (.shr x y) := xyfRow (p := 0x8006#16) (by decide) (by decide) (by decide)
theorem subn (x y : RegIdx) : Statement (.subn x y) := xyfRow (p := 0x8007#16) (by decide) (by decide) (by decide)
theorem shl (x y : RegIdx) : Statement (.shl x y) := xyfRow (p := 0x800E#16) (by decide) (by decide) (by decide)
theorem sneReg (x y : RegIdx) : Statement (.sneReg x y) := xynRow (p := 0x9000#16) (by decide) (by decide)
theorem ldI (nnn : BitVec 12) : Statement (.ldI nnn) := nnnRow (p := 0xA000#16) (by decide) (by decide)
theorem jpV0 (nnn : BitVec 12) : Statement (.jpV0 nnn) := nnnRow (p := 0xB000#16) (by decide) (by decide)
theorem rnd (x : RegIdx) (nn : Byte) : Statement (.rnd x nn) := xnnRow (p := 0xC000#16) (by decide) (by decide)
theorem drw (x y : RegIdx) (n : Nat) : Statement (.drw x y n) := xynRow (p := 0xD000#16) (by decide) (by decide)
theorem skp (x : RegIdx) : Statement (.skp x) := xkkRow (p := 0xE09E#16) (by decide) (by decide) (by decide)
theorem sknp (x : RegIdx) : Statement (.sknp x) := xkkRow (p := 0xE0A1#16) (by decide) (by decide) (by decide)
theorem ldVxDt (x : RegIdx) : Statement (.ldVxDt x) := xkkRow (p := 0xF007#16) (by decide) (by decide) (by decide)
theorem ldVxK (x : RegIdx) : Statement (.ldVxK x) := xkkRow (p := 0xF00A#16) (by decide) (by decide) (by decide)
theorem ldDtVx (x : RegIdx) : Statement (.ldDtVx x) := xkkRow (p := 0xF015#16) (by decide) (by decide) (by decide)
theorem ldStVx (x : RegIdx) : Statement (.ldStVx x) := xkkRow (p := 0xF018#16) (by decide) (by decide) (by decide)
theorem addI (x : RegIdx) : Statement (.addI x) := xkkRow (p := 0xF01E#16) (by decide) (by decide) (by decide)
theorem ldF (x : RegIdx) : Statement (.ldF x) := xkkRow (p := 0xF029#16) (by decide) (by decide) (by decide)
theorem ldB (x : RegIdx) : Statement (.ldB x) := xkkRow (p := 0xF033#16) (by decide) (by decide) (by decide)
theorem stRegs (x : RegIdx) : Statement (.stRegs x) := xkkRow (p := 0xF055#16) (by decide) (by decide) (by decide)
theorem ldRegs (x : RegIdx) : Statement (.ldRegs x) := xkkRow (p := 0xF065#16) (by decide) (by decide) (by decide)

end Sys2Proof.Laws.Table
end

