-- ==== Sys2Proof/Tests/Slice0.lean ====
section
/-! SUPPORT. Tests. Expected values are the worked examples S<n> and the vectors V-… of 95_test_vectors.md, and words written out
from the encodings of 30_encoding.md R102; the witnesses at the end show for each statement with hypotheses that they can be met. -/

open Sys2Proof Sys2Proof.Machine Sys2Proof.Claims

namespace Sys2Proof.Tests

/-! ### Helpers -/

/-- The reset state with one instruction word at `pc`. -/
def word (iw : Nat) : State := State.reset.withFetchWord 16 iw

/-- Set some registers. -/
def regs (rs : List (RegIdx × Byte)) (s : State) : State := rs.foldl (fun t r => t.setReg r.1 r.2) s

/-- Set I. -/
def index (a : Word) (s : State) : State := { s with i := a }

/-- Put bytes into memory. -/
def bytes (a : Nat) (bs : List Byte) (s : State) : State := s.storeBytes a bs

/-- Set SP and STACK[0]. -/
def calls (n : Fin 17) (w : Word) (s : State) : State := { s with sp := n, stack := s.stack.set 0 w }

/-- Press keys. -/
def press (ks : List (Fin 16)) (s : State) : State := ks.foldl (fun t k => { t with keys := t.keys.set k.val true }) s

/-- Set framebuffer cells. -/
def lit (cells : List (Fin 64 × Fin 32)) (s : State) : State :=
  cells.foldl (fun t c => { t with fb := Framebuffer.toggle t.fb c.1 c.2 }) s

/-- One step from `s` answers a next state that passes the check. -/
def after (s : State) (check : State → Bool) : Bool :=
  match step s with
  | .next t => check t
  | .fault _ => false
  | .refused _ => false

/-! ### Well-formedness, decoding, encoding -/

theorem test_draw_of_16_rows_is_ill_formed : (Instr.drw 0 0 16).wellFormed = false := by decide
theorem test_draw_of_15_rows_is_well_formed : (Instr.drw 15 15 15).wellFormed = true := by decide
theorem test_encoding_drops_the_bit_of_an_ill_formed_row_count : decode (encode (.drw 0 0 16)) = .instr (.drw 0 0 0) := by
  decide

theorem test_decode_control :
    decode 0b0000_0000_1110_1110#16 = .instr .ret ∧ decode 0b0001_1010_1011_1100#16 = .instr (.jp 0xABC#12) ∧
    decode 0b0010_0011_0000_0000#16 = .instr (.call 0x300#12) ∧ decode 0b0011_0101_0100_0010#16 = .instr (.seImm 5 0x42#8) ∧
    decode 0b0100_0101_0100_0010#16 = .instr (.sneImm 5 0x42#8) ∧ decode 0b0101_0001_0010_0000#16 = .instr (.seReg 1 2) ∧
    decode 0b1001_0001_0010_0000#16 = .instr (.sneReg 1 2) ∧ decode 0b1011_0011_0000_0000#16 = .instr (.jpV0 0x300#12) := by
  decide

theorem test_decode_alu :
    decode 0b0110_1010_1111_1111#16 = .instr (.ldImm 10 0xFF#8) ∧ decode 0b0111_0000_0000_0001#16 = .instr (.addImm 0 1#8) ∧
    decode 0b1000_0001_0010_0000#16 = .instr (.ldReg 1 2) ∧ decode 0b1000_0001_0010_0001#16 = .instr (.orReg 1 2) ∧
    decode 0b1000_0001_0010_0010#16 = .instr (.andReg 1 2) ∧ decode 0b1000_0001_0010_0011#16 = .instr (.xorReg 1 2) ∧
    decode 0b1000_0001_0010_0100#16 = .instr (.addReg 1 2) ∧ decode 0b1000_0001_0010_0101#16 = .instr (.sub 1 2) ∧
    decode 0b1000_0001_0010_0110#16 = .instr (.shr 1 2) ∧ decode 0b1000_0001_0010_0111#16 = .instr (.subn 1 2) ∧
    decode 0b1000_0001_0010_1110#16 = .instr (.shl 1 2) ∧ decode 0b1100_0001_0000_1111#16 = .instr (.rnd 1 0x0F#8) := by
  decide

theorem test_decode_index_and_memory :
    decode 0b1010_0001_0010_0011#16 = .instr (.ldI 0x123#12) ∧ decode 0b1111_0010_0001_1110#16 = .instr (.addI 2) ∧
    decode 0b1111_0010_0010_1001#16 = .instr (.ldF 2) ∧ decode 0b1111_0010_0011_0011#16 = .instr (.ldB 2) ∧
    decode 0b1111_0010_0101_0101#16 = .instr (.stRegs 2) ∧ decode 0b1111_0010_0110_0101#16 = .instr (.ldRegs 2) := by
  decide

theorem test_decode_display :
    decode 0b0000_0000_1110_0000#16 = .instr .cls ∧ decode 0b1101_0001_0010_0101#16 = .instr (.drw 1 2 5) := by
  decide

theorem test_decode_keypad_and_timers :
    decode 0b1110_0011_1001_1110#16 = .instr (.skp 3) ∧ decode 0b1110_0011_1010_0001#16 = .instr (.sknp 3) ∧
    decode 0b1111_0011_0000_0111#16 = .instr (.ldVxDt 3) ∧ decode 0b1111_0011_0000_1010#16 = .instr (.ldVxK 3) ∧
    decode 0b1111_0011_0001_0101#16 = .instr (.ldDtVx 3) ∧ decode 0b1111_0011_0001_1000#16 = .instr (.ldStVx 3) := by
  decide

/-- Aliases (R99) and unknown words (R95 to R98). -/
theorem test_decode_aliases_and_unknown :
    decode 0x07EE#16 = .instr .ret ∧ decode 0x03E0#16 = .instr .cls ∧ decode 0x5121#16 = .instr (.seReg 1 2) ∧
    decode 0x912F#16 = .instr (.sneReg 1 2) ∧ decode 0x0000#16 = .unknownOpcode 0x0000#16 ∧
    decode 0x8128#16 = .unknownOpcode 0x8128#16 ∧ decode 0xE100#16 = .unknownOpcode 0xE100#16 ∧
    decode 0xF1FF#16 = .unknownOpcode 0xF1FF#16 := by
  decide

theorem test_decode_bytes :
    decodeBytes [0x23#8, 0x00#8, 0xAA#8] = .instr (.call 0x300#12) [0xAA#8] ∧ decodeBytes [0x23#8] = .truncated [0x23#8] ∧
    decodeBytes [0x01#8, 0x23#8] = .unknownOpcode 0x0123#16 [] := by
  decide

theorem test_decode_table_word :
    decodeTableWord 16 0x8014 = some (.addReg 0 1) ∧ decodeTableWord 16 0x0000 = none := by decide

/-- The sizes of 30_encoding.md R92's formats: an encoded word is laid out high byte first. -/
theorem test_encode_bytes : encodeBytes (.drw 1 2 5) = [0xD1#8, 0x25#8] := by decide

/-! ### Reset and the placed word -/

theorem test_reset_memory : Memory.wf State.reset.font State.reset.memory = true ∧ State.reset.readByte 0x200 = 0#8 := by decide
theorem test_reset_font : State.reset.loadBytes 0x082 5 = [0xF0#8, 0x90#8, 0xF0#8, 0x90#8, 0x90#8] := by decide
theorem test_placed_word : (word 0x1234).readByte 0x200 = 0x12#8 ∧ (word 0x1234).readByte 0x201 = 0x34#8 := by decide
theorem test_placed_word_runs : step (word 0x6005) = exec (.ldImm 0 5#8) (word 0x6005) := by rfl

/-! ### Control transfer -/

theorem test_jp : after (word 0x1ABC) (fun t => t.pc == 0xABC#16) = true := by decide
theorem test_jp_to_odd_top : after (word 0x1FFF) (fun t => t.pc == 0xFFF#16 && !t.halt) = true := by decide
theorem test_call :
    after (word 0x2300) (fun t => t.stack[0] == 0x202#16 && t.sp == 1 && t.pc == 0x300#16) = true := by decide
theorem test_call_at_top :
    after (bytes 0xFFE [0x23#8, 0x00#8] { State.reset with pc := 0xFFE#16 })
      (fun t => t.stack[0] == 0x1000#16 && t.pc == 0x300#16) = true := by decide
theorem test_call_full :
    after (calls 16 0x300#16 (word 0x2300))
      (fun t => t.halt && t.faultKind.code == 2#2 && t.pc == 0x200#16 && t.sp == 16) = true := by decide
theorem test_ret : after (calls 1 0x300#16 (word 0x00EE)) (fun t => t.pc == 0x300#16 && t.sp == 0) = true := by decide
theorem test_ret_empty : after (word 0x00EE) (fun t => t.halt && t.faultKind.code == 3#2 && t.pc == 0x200#16) = true := by decide
theorem test_se_imm : after (word 0x3000) (fun t => t.pc == 0x204#16) = true := by decide
theorem test_se_imm_not : after (regs [(0, 1#8)] (word 0x3000)) (fun t => t.pc == 0x202#16) = true := by decide
theorem test_sne_imm : after (regs [(0, 1#8)] (word 0x4000)) (fun t => t.pc == 0x204#16) = true := by decide
theorem test_sne_imm_not : after (word 0x4000) (fun t => t.pc == 0x202#16) = true := by decide
theorem test_se_reg : after (regs [(1, 9#8), (2, 9#8)] (word 0x5120)) (fun t => t.pc == 0x204#16) = true := by decide
theorem test_se_reg_not : after (regs [(1, 9#8), (2, 8#8)] (word 0x5120)) (fun t => t.pc == 0x202#16) = true := by decide
theorem test_sne_reg : after (regs [(1, 9#8), (2, 8#8)] (word 0x9120)) (fun t => t.pc == 0x204#16) = true := by decide
theorem test_sne_reg_not : after (regs [(1, 9#8), (2, 9#8)] (word 0x9120)) (fun t => t.pc == 0x202#16) = true := by decide
theorem test_jp_v0 : after (regs [(0, 0xFF#8)] (word 0xBFFF)) (fun t => t.pc == 0x10FE#16 && !t.halt) = true := by decide
theorem test_jp_v0_ignores_old_pc :
    after (bytes 0x400 [0xB3#8, 0x00#8] (regs [(0, 4#8)] { State.reset with pc := 0x400#16 })) (fun t => t.pc == 0x304#16) =
      true := by decide

/-! ### Registers and ALU -/

theorem test_ld_imm : after (word 0x6AFF) (fun t => t.reg 10 == 0xFF#8 && t.pc == 0x202#16) = true := by decide
theorem test_ld_imm_vf : after (word 0x6F07) (fun t => t.reg 15 == 7#8) = true := by decide
theorem test_add_imm_wraps :
    after (regs [(0, 0xFF#8), (15, 1#8)] (word 0x7001)) (fun t => t.reg 0 == 0#8 && t.reg 15 == 1#8) = true := by decide
theorem test_add_imm_vf : after (regs [(15, 0xFF#8)] (word 0x7F01)) (fun t => t.reg 15 == 0#8) = true := by decide
theorem test_ld_reg : after (regs [(2, 0x5A#8)] (word 0x8120)) (fun t => t.reg 1 == 0x5A#8 && t.reg 2 == 0x5A#8) = true := by decide
theorem test_or :
    after (regs [(1, 0xF0#8), (2, 0x0F#8), (15, 1#8)] (word 0x8121)) (fun t => t.reg 1 == 0xFF#8 && t.reg 15 == 1#8) = true := by
  decide
theorem test_and :
    after (regs [(1, 0xF0#8), (2, 0x3C#8), (15, 1#8)] (word 0x8122)) (fun t => t.reg 1 == 0x30#8 && t.reg 15 == 1#8) = true := by
  decide
theorem test_xor :
    after (regs [(1, 0xF0#8), (2, 0x3C#8), (15, 1#8)] (word 0x8123)) (fun t => t.reg 1 == 0xCC#8 && t.reg 15 == 1#8) = true := by
  decide
theorem test_xor_self : after (regs [(1, 7#8)] (word 0x8113)) (fun t => t.reg 1 == 0#8) = true := by decide
theorem test_add_reg_overflow :
    after (regs [(0, 0xFF#8), (1, 1#8)] (word 0x8014)) (fun t => t.reg 0 == 0#8 && t.reg 15 == 1#8 && t.reg 1 == 1#8) = true := by
  decide
theorem test_add_reg_vf : after (regs [(15, 0x10#8), (1, 2#8)] (word 0x8F14)) (fun t => t.reg 15 == 0#8) = true := by decide
theorem test_sub_underflow :
    after (regs [(0, 1#8), (1, 2#8)] (word 0x8015)) (fun t => t.reg 0 == 0xFF#8 && t.reg 15 == 0#8) = true := by decide
theorem test_sub_equal :
    after (regs [(1, 7#8), (2, 7#8)] (word 0x8125)) (fun t => t.reg 1 == 0#8 && t.reg 15 == 1#8) = true := by decide
theorem test_shr_ignores_y :
    after (regs [(3, 4#8), (7, 0xFF#8)] (word 0x8376)) (fun t => t.reg 3 == 2#8 && t.reg 15 == 0#8 && t.reg 7 == 0xFF#8) = true := by
  decide
theorem test_shr_vf : after (regs [(15, 5#8)] (word 0x8F06)) (fun t => t.reg 15 == 2#8) = true := by decide
theorem test_subn_underflow :
    after (regs [(0, 2#8), (1, 1#8)] (word 0x8017)) (fun t => t.reg 0 == 0xFF#8 && t.reg 15 == 0#8) = true := by decide
theorem test_subn_vf : after (regs [(15, 5#8), (1, 2#8)] (word 0x8F17)) (fun t => t.reg 15 == 0#8) = true := by decide
theorem test_shl : after (regs [(3, 0x81#8)] (word 0x830E)) (fun t => t.reg 3 == 2#8 && t.reg 15 == 1#8) = true := by decide
theorem test_shl_vf : after (regs [(15, 0x81#8)] (word 0x8F0E)) (fun t => t.reg 15 == 2#8) = true := by decide
/-- V-AL-32, whatever the random input. -/
theorem test_rnd_masked_to_zero (s : State) : ∃ t, exec (.rnd 1 0#8) s = .next t ∧ t.v[1] = 0#8 := by
  exact ⟨_, rfl, by simp [State.advance, State.setReg]⟩
theorem test_rnd_counts_a_draw : after (word 0xC1FF) (fun t => t.randomDraws == 1 && t.pc == 0x202#16) = true := by decide

/-! ### Index register and memory -/

theorem test_ld_i : after (word 0xA123) (fun t => t.i == 0x123#16 && t.pc == 0x202#16) = true := by decide
theorem test_add_i :
    after (index 0xFFF#16 (regs [(2, 1#8), (15, 7#8)] (word 0xF21E))) (fun t => t.i == 0x1000#16 && t.reg 15 == 7#8) = true := by
  decide
theorem test_add_i_wraps : after (index 0xFFFF#16 (regs [(2, 1#8)] (word 0xF21E))) (fun t => t.i == 0#16) = true := by decide
theorem test_ld_f : after (regs [(0, 0x0A#8)] (word 0xF029)) (fun t => t.i == 0x082#16) = true := by decide
theorem test_ld_f_unmasked : after (regs [(0, 0xFF#8)] (word 0xF029)) (fun t => t.i == 0x54B#16) = true := by decide
theorem test_ld_b_at_top :
    after (index 0xFFD#16 (regs [(0, 255#8)] (word 0xF033)))
      (fun t => t.loadBytes 0xFFD 3 == [2#8, 5#8, 5#8] && !t.halt && t.pc == 0x202#16) = true := by decide
theorem test_ld_b_beyond_top :
    after (index 0xFFE#16 (regs [(0, 255#8)] (word 0xF033)))
      (fun t => t.halt && t.faultAddr == 0x1000#16 && t.loadBytes 0xFFE 2 == [0#8, 0#8] && t.pc == 0x200#16) = true := by decide
theorem test_st_regs :
    after (index 0x400#16 (regs [(0, 1#8), (1, 2#8), (2, 3#8), (3, 4#8)] (word 0xF255)))
      (fun t => t.loadBytes 0x400 4 == [1#8, 2#8, 3#8, 0#8] && t.i == 0x400#16) = true := by decide
theorem test_st_regs_over_own_word :
    after (index 0x200#16 (regs [(0, 0x12#8)] (word 0xF155)))
      (fun t => t.loadBytes 0x200 2 == [0x12#8, 0x00#8] && t.pc == 0x202#16) = true := by decide
theorem test_ld_regs :
    after (index 0x400#16 (bytes 0x400 [7#8, 8#8, 9#8] (regs [(3, 0x55#8)] (word 0xF265))))
      (fun t => t.reg 0 == 7#8 && t.reg 1 == 8#8 && t.reg 2 == 9#8 && t.reg 3 == 0x55#8 && t.i == 0x400#16) = true := by decide
theorem test_ld_regs_beyond_top :
    after (index 0x2000#16 (word 0xF365)) (fun t => t.halt && t.faultKind.code == 1#2 && t.faultAddr == 0x2000#16) = true := by
  decide

/-! ### Display -/

theorem test_cls : after (lit [(0, 0), (63, 31)] (word 0x00E0)) (fun t => t.fb == Framebuffer.clear && t.pc == 0x202#16) = true := by
  decide
theorem test_cls_reports_a_change : (stepOutput (word 0x00E0)).displayChanged = true := by decide
theorem test_draw_collision :
    after (index 0x300#16 (bytes 0x300 [0xC0#8] (lit [(1, 0), (5, 5)] (word 0xD011))))
      (fun t => t.pixel 0 0 && !t.pixel 1 0 && t.pixel 5 5 && t.reg 15 == 1#8) = true := by decide
/-- V-DP-6 with V-DP-7: columns and rows wrap. -/
theorem test_draw_wraps :
    after (index 0x300#16 (bytes 0x300 [0xFF#8, 0x80#8] (regs [(0, 0x3C#8), (1, 0x1F#8)] (word 0xD012))))
      (fun t => t.fb == (lit [(60, 31), (61, 31), (62, 31), (63, 31), (0, 31), (1, 31), (2, 31), (3, 31), (60, 0)] State.reset).fb &&
        t.reg 15 == 0#8) = true := by decide

/-! ### Keypad and timers -/

theorem test_skp : after (press [3] (regs [(1, 0x13#8)] (word 0xE19E))) (fun t => t.pc == 0x204#16) = true := by decide
theorem test_skp_not : after (regs [(1, 3#8)] (word 0xE19E)) (fun t => t.pc == 0x202#16) = true := by decide
theorem test_sknp : after (regs [(1, 3#8)] (word 0xE1A1)) (fun t => t.pc == 0x204#16) = true := by decide
theorem test_sknp_not : after (press [3] (regs [(1, 3#8)] (word 0xE1A1))) (fun t => t.pc == 0x202#16) = true := by decide
theorem test_key_read : after (press [7, 3] (word 0xF10A)) (fun t => t.reg 1 == 3#8 && t.pc == 0x202#16) = true := by decide
theorem test_key_wait :
    after (word 0xF10A) (fun t => t == word 0xF10A) = true ∧ (stepOutput (word 0xF10A)).keyWait = true := by decide
theorem test_ld_vx_dt :
    after { word 0xF207 with dt := 7#8 } (fun t => t.reg 2 == 7#8 && t.dt == 7#8 && t.pc == 0x202#16) = true := by decide
theorem test_ld_dt_vx : after (regs [(0, 10#8)] (word 0xF015)) (fun t => t.dt == 10#8 && t.pc == 0x202#16) = true := by decide
theorem test_ld_st_vx : after (regs [(4, 2#8)] (word 0xF418)) (fun t => t.st == 2#8 && soundActive t) = true := by decide

/-! ### Unknown words, faults, host operations -/

theorem test_unknown_word :
    after (word 0x0123) (fun t => t == { word 0x0123 with pc := 0x202#16 }) = true ∧
    stepOutput (word 0x0123) =
      { displayChanged := false, unknownOpcode := some (0x0123#16, 0x200#16), fault := none, keyWait := false } := by decide
theorem test_fetch_fault :
    after { State.reset with pc := 0x10FE#16 } (fun t => t.halt && t.faultAddr == 0x10FE#16 && t.pc == 0x10FE#16) = true := by decide
theorem test_halted_step : after (takeFault .stackUnderflow (word 0x6005)) (fun t => t == takeFault .stackUnderflow (word 0x6005)) = true := by
  decide
theorem test_tick : (tickTimers { State.reset with dt := 1#8, st := 0#8 }).dt = 0#8 ∧ (tickTimers State.reset).dt = 0#8 := by decide
theorem test_set_key : setKey 3 true State.reset = .next (press [3] State.reset) := by rfl
theorem test_load : loadTransaction [0xAA#8, 0xBB#8] defaultLoadOffset State.reset =
    .next { State.reset with memory := [(0x200, 0xAA#8), (0x201, 0xBB#8)] } := by rfl
theorem test_load_of_font_byte_reset_value_lists_nothing :
    loadTransaction [State.reset.readByte 0x050] 0x050 (bytes 0x050 [0xFF#8] State.reset) = .next State.reset := by rfl

/-! ### Witnesses: the hypotheses of each statement are met together -/

theorem witness_ResetGivesTheTableOfResetValues :
    (0x04F < 0x1000 ∧ (0x04F < 0x050 ∨ 0x0A0 ≤ 0x04F)) ∧ (0xFFF < 0x1000 ∧ (0xFFF < 0x050 ∨ 0x0A0 ≤ 0xFFF)) := by decide

theorem witness_TimersMoveByTickAndTimerWritesOnly :
    (∃ t, step (regs [(0, 10#8)] (word 0xF015)) = .next t ∧ t.dt ≠ State.reset.dt) ∧
    (∃ t, step (regs [(0, 10#8)] (word 0xF018)) = .next t ∧ t.st ≠ State.reset.st) ∧
    (∃ t, applyTransaction (.load [1#8] 0x200) State.reset = .next t) ∧
    (∃ t, applyTransaction (.setKey 15 true) State.reset = .next t) :=
  ⟨⟨_, rfl, by decide⟩, ⟨_, rfl, by decide⟩, ⟨_, rfl⟩, ⟨_, rfl⟩⟩

theorem witness_SetKeyWritesOneKeyAndStepsWriteNone : 16 ≤ 16 ∧ ∃ t, step (word 0x00E0) = .next t := ⟨by decide, _, rfl⟩

/-- offset + length at 0xFFF, 0x1000 and 0x1001. -/
theorem witness_LoadCopiesTheBytesOrChangesNothing :
    Memory.wf State.reset.font State.reset.memory = true ∧ 0xFFD + [1#8, 2#8].length ≤ 0xFFF ∧
    0xFFE + [1#8, 2#8].length = 0x1000 ∧ 0x1000 < 0xFFF + [1#8, 2#8].length := by decide

theorem witness_SoundAndFramebufferPortsShowTheState :
    Transaction.tickTimers ≠ .step ∧ Transaction.tickTimers ≠ .reset ∧ ∃ t, applyTransaction .tickTimers State.reset = .next t :=
  ⟨by decide, by decide, _, rfl⟩

/-- The last address a fetch can use. -/
def atTop : State := bytes 0xFFE [0x6A#8, 0x05#8] { State.reset with pc := 0xFFE#16 }

theorem witness_StepRunsTheDecodedInstruction :
    atTop.halt = false ∧ atTop.pc.toNat ≤ 0xFFE ∧
    decodeBytes [atTop.readByte atTop.pc.toNat, atTop.readByte (atTop.pc.toNat + 1)] = .instr (.ldImm 10 5#8) [] := by decide

theorem witness_FetchIsBigEndianAtAnyAddress : atTop.pc.toNat ≤ 0xFFE := by decide

theorem witness_UnknownWordIsReportedOnceAndSkipped :
    (word 0x8128).halt = false ∧ (word 0x8128).pc.toNat ≤ 0xFFE ∧ decode (word 0x8128).fetchWord = .unknownOpcode 0x8128#16 := by
  decide

theorem witness_HaltedMachineStaysAsItIsUntilReset :
    (takeFault .stackUnderflow State.reset).halt = true ∧ Transaction.setKey 3 true ≠ .reset ∧
    ∃ t, applyTransaction (.setKey 3 true) (takeFault .stackUnderflow State.reset) = .next t := ⟨by decide, by decide, _, rfl⟩

theorem witness_FetchBeyondMemoryRaisesOutOfBounds :
    ({ State.reset with pc := 0xFFF#16 } : State).halt = false ∧ 0xFFE < ({ State.reset with pc := 0xFFF#16 } : State).pc.toNat := by
  decide

theorem witness_FatalFaultsArePrecise :
    (word 0x00EE).halt = false ∧ ∃ t, step (word 0x00EE) = .next t ∧ t.halt = true := ⟨by decide, _, rfl, by decide⟩

theorem witness_StackFaultsAreRaisedAtTheLimitsOnly :
    (calls 16 0#16 State.reset).sp = 16 ∧ State.reset.sp = 0 ∧
    (∃ t, step (calls 16 0#16 (word 0x2300)) = .next t ∧ t.halt = true ∧ t.faultKind = .stackOverflow) ∧
    (∃ t, step (word 0x00EE) = .next t ∧ t.halt = true ∧ t.faultKind = .stackUnderflow) :=
  ⟨by decide, by decide, ⟨_, rfl, by decide⟩, ⟨_, rfl, by decide⟩⟩

/-- An access that does not fit, a fetch that cannot be made, and a step that raises nothing. -/
theorem witness_OutOfBoundsIsRaisedByExactlyTheseAccesses :
    (∃ t, step (index 0xFFE#16 (word 0xF355)) = .next t ∧ t.halt = true ∧ t.faultKind = .outOfBounds) ∧
    (∃ t, step { State.reset with pc := 0x1000#16 } = .next t ∧ t.halt = true ∧ t.faultKind = .outOfBounds) ∧
    (∃ t, step (index 0xFFD#16 (word 0xF255)) = .next t ∧ t.halt = false) :=
  ⟨⟨_, rfl, by decide⟩, ⟨_, rfl, by decide⟩, ⟨_, rfl, by decide⟩⟩

theorem witness_DecodeOfEncodeIsTheInstruction :
    Instr.cls.WellFormed ∧ (Instr.drw 15 15 15).WellFormed ∧ (Instr.drw 0 0 0).WellFormed := by decide

theorem witness_DispatchSelectsExactlyTheTablesRow : decode 0x5121#16 = .instr (.seReg 1 2) := by decide

theorem witness_CanonicalWordClearsTheIgnoredBits :
    decode 0x5121#16 = .instr (.seReg 1 2) ∧ decode 0x07EE#16 = .instr .ret := by decide

theorem witness_AliasWordsDecodeAlike :
    (Field.group 0x5120#16 = 0x5#4 ∧ 0x5120#16 &&& 0xFFF0#16 = 0x512F#16 &&& 0xFFF0#16) ∧
    (Field.group 0x9120#16 = 0x9#4 ∧ 0x9120#16 &&& 0xFFF0#16 = 0x9121#16 &&& 0xFFF0#16) ∧
    (Field.group 0x00E0#16 = 0x0#4 ∧ Field.nn 0x00E0#16 = 0xE0#8 ∧ 0x00E0#16 &&& 0xF0FF#16 = 0x0FE0#16 &&& 0xF0FF#16) ∧
    (Field.group 0x00EE#16 = 0x0#4 ∧ Field.nn 0x00EE#16 = 0xEE#8 ∧ 0x00EE#16 &&& 0xF0FF#16 = 0x07EE#16 &&& 0xF0FF#16) := by
  decide

/-- A word of each row that a statement's `Selects` is about (JumpsSetPcToTheirTarget, LoadsCopyTheirSource and so on). -/
theorem witness_Selects :
    (0x1FFF#16 &&& 0xF000#16 = 0x1000#16 ∧ 0xBFFF#16 &&& 0xF000#16 = 0xB000#16 ∧ 0x2FFF#16 &&& 0xF000#16 = 0x2000#16 ∧
      0x07EE#16 &&& 0xF0FF#16 = 0x00EE#16) ∧
    (0x3A42#16 &&& 0xF000#16 = 0x3000#16 ∧ 0x4A42#16 &&& 0xF000#16 = 0x4000#16 ∧ 0x5121#16 &&& 0xF000#16 = 0x5000#16 ∧
      0x9121#16 &&& 0xF000#16 = 0x9000#16 ∧ 0x6F07#16 &&& 0xF000#16 = 0x6000#16 ∧ 0x7F01#16 &&& 0xF000#16 = 0x7000#16) ∧
    (0x8120#16 &&& 0xF00F#16 = 0x8000#16 ∧ 0x8121#16 &&& 0xF00F#16 = 0x8001#16 ∧ 0x8122#16 &&& 0xF00F#16 = 0x8002#16 ∧
      0x8123#16 &&& 0xF00F#16 = 0x8003#16 ∧ 0xC10F#16 &&& 0xF000#16 = 0xC000#16 ∧ 0xA123#16 &&& 0xF000#16 = 0xA000#16) ∧
    (0xF21E#16 &&& 0xF0FF#16 = 0xF01E#16 ∧ 0xF229#16 &&& 0xF0FF#16 = 0xF029#16 ∧ 0xF233#16 &&& 0xF0FF#16 = 0xF033#16 ∧
      0xF255#16 &&& 0xF0FF#16 = 0xF055#16 ∧ 0xF265#16 &&& 0xF0FF#16 = 0xF065#16 ∧ 0x03E0#16 &&& 0xF0FF#16 = 0x00E0#16) ∧
    (0xD125#16 &&& 0xF000#16 = 0xD000#16 ∧ 0xE19E#16 &&& 0xF0FF#16 = 0xE09E#16 ∧ 0xE1A1#16 &&& 0xF0FF#16 = 0xE0A1#16 ∧
      0xF10A#16 &&& 0xF0FF#16 = 0xF00A#16 ∧ 0xF207#16 &&& 0xF0FF#16 = 0xF007#16 ∧ 0xF015#16 &&& 0xF0FF#16 = 0xF015#16 ∧
      0xF418#16 &&& 0xF0FF#16 = 0xF018#16) := by
  decide

/-- SP at 0, 15 and 16. -/
theorem witness_CallPushesTheReturnAddress :
    State.reset.sp.val < 16 ∧ (calls 15 0#16 State.reset).sp.val < 16 ∧ (calls 16 0#16 State.reset).sp = 16 := by decide

/-- SP at 1, 16 and 0. -/
theorem witness_ReturnPopsIntoPc :
    (calls 1 0#16 State.reset).sp.val = (0 : Fin 16).val + 1 ∧ (calls 16 0#16 State.reset).sp.val = (15 : Fin 16).val + 1 ∧
    State.reset.sp = 0 := by decide

theorem witness_ReturnUndoesCall :
    State.reset.sp.val < 16 ∧ ∃ t u : State, exec (.call 0x300#12) State.reset = .next t ∧ u.stack = t.stack ∧ u.sp = t.sp :=
  ⟨by decide, _, _, rfl, rfl, rfl⟩

/-- The bounds of AdditionGivesTheSumAndTheCarry, SubtractionGivesTheDifferenceAndNotBorrow and ShiftsMoveByOneBit (x other than
15, k below 7), BitwiseOperationsActOnEachBitAndWriteNoFlag and RandomMaskStoresTheSampleMasked (k below 8). -/
theorem witness_DestinationsOtherThanVf : (14 : RegIdx) ≠ 15 ∧ 6 < 7 ∧ 7 < 8 := by decide

theorem witness_JumpsSkipsAndSingleWritesChangeNothingElse :
    Instr.sknp 3 ∈ [Instr.jp 1#12, .jpV0 1#12, .seImm 3 0#8, .sneImm 3 0#8, .seReg 3 1, .sneReg 3 1, .skp 3, .sknp 3] := by decide

theorem witness_RegisterInstructionsChangeOnlyTheirDestination :
    registerDestination (.shl 3 7) = some 3 ∧ registerDestination (.rnd 15 1#8) = some 15 ∧
    registerDestination (.ldVxDt 0) = some 0 := by decide

/-- I at the last address that fits and at the first that does not, for three digits. -/
theorem witness_DecimalDigitsAreStoredAtI :
    Memory.wf State.reset.font State.reset.memory = true ∧ (index 0xFFD#16 State.reset).i.toNat + 2 ≤ 0xFFF ∧
    0xFFF < (index 0xFFE#16 State.reset).i.toNat + 2 := by decide

/-- The same for sixteen registers; also for the loads. -/
theorem witness_StoreRegistersWritesV0ToVxAtI :
    Memory.wf State.reset.font State.reset.memory = true ∧ (index 0xFF0#16 State.reset).i.toNat + (15 : RegIdx).val ≤ 0xFFF ∧
    0xFFF < (index 0xFF1#16 State.reset).i.toNat + (15 : RegIdx).val ∧ (15 : RegIdx) ≤ 15 := by decide

theorem witness_LoadRegistersReadsV0ToVxFromI :
    (index 0xFFF#16 State.reset).i.toNat + (0 : RegIdx).val ≤ 0xFFF ∧ 0xFFF < (index 0x1000#16 State.reset).i.toNat + (0 : RegIdx).val := by
  decide

theorem witness_LoadAfterStoreRestoresTheRegisters :
    Memory.wf State.reset.font State.reset.memory = true ∧ (index 0xFFE#16 State.reset).i.toNat + (1 : RegIdx).val ≤ 0xFFF ∧
    ∃ t u : State, exec (.stRegs 1) (index 0xFFE#16 State.reset) = .next t ∧ u.memory = t.memory ∧ u.font = t.font ∧
      u.i = (index 0xFFE#16 State.reset).i :=
  ⟨by decide, by decide, _, _, rfl, rfl, rfl, rfl⟩

/-- The store ends at the last byte of memory. -/
theorem witness_StoreIsSeenByTheNextFetch :
    let s : State := { State.reset with pc := 0xFFC#16, i := 0xFFE#16 }
    Memory.wf s.font s.memory = true ∧ s.pc.toNat + 4 ≤ 0x1000 ∧ s.i = s.pc + 2#16 ∧ 1 ≤ (1 : RegIdx).val ∧
    s.i.toNat + (1 : RegIdx).val ≤ 0xFFF ∧ ∃ t, exec (.stRegs 1) s = .next t :=
  ⟨by decide, by decide, by decide, by decide, by decide, _, rfl⟩

theorem witness_ClearDisplayClearsEveryCell :
    (word 0x00E0).halt = false ∧ (word 0x00E0).pc.toNat ≤ 0xFFE ∧ decode (word 0x00E0).fetchWord = .instr .cls := by decide

/-- Fifteen rows that just fit, no rows beyond memory, fifteen rows that do not fit. -/
theorem witness_DrawXorsTheSpriteMaskAndReportsCollision :
    (15 ≤ 15 ∧ (index 0xFF1#16 State.reset).i.toNat + 15 ≤ 0x1000) ∧ (0 ≤ 15 ∧ 0 = 0) ∧
    (15 ≤ 15 ∧ 15 ≠ 0 ∧ 0x1000 < (index 0xFF2#16 State.reset).i.toNat + 15) := by decide

theorem witness_DrawingTwiceRestoresTheFramebuffer :
    let s := index 0x300#16 (bytes 0x300 [0x80#8] State.reset)
    (0 : RegIdx) ≠ 15 ∧ (1 : RegIdx) ≠ 15 ∧ 1 ≤ 15 ∧ s.i.toNat + 1 ≤ 0x1000 ∧ s.fb = Framebuffer.clear ∧
    (0 : Fin 15).val < 1 ∧ s.readByte (s.i.toNat + (0 : Fin 15).val) ≠ 0#8 ∧
    ∃ t u : State, exec (.drw 0 1 1) s = .next t ∧ exec (.drw 0 1 1) t = .next u :=
  ⟨by decide, by decide, by decide, by decide, by decide, by decide, by decide, _, _, rfl, rfl⟩

theorem witness_KeySkipsTestTheLowNibblesKey : (3 : Fin 16).val = ((regs [(1, 0x13#8)] State.reset).reg 1).toNat % 16 := by decide

/-- No key, and keys 3 and 7. -/
theorem witness_KeyReadWaitsOrStoresTheLowestKey :
    (∀ k, State.reset.key k = false) ∧
    (press [7, 3] State.reset).key 3 = true ∧ (∀ j : Fin 16, j < 3 → (press [7, 3] State.reset).key j = false) := by decide

theorem witness_KeyWaitOutputIsTheKeyWaitCondition : (word 0xF10A).KeyWait := ⟨by decide, by decide, by decide, by decide⟩

theorem witness_DisplayChangedExactlyWhenADrawCompletes :
    ∃ t, step (word 0xD000) = .next t ∧ t.halt = false := ⟨_, rfl, by decide⟩

theorem witness_OneStepReportsAtMostOneEvent :
    (stepOutput (word 0x0000)).unknownOpcode ≠ none ∧ (stepOutput (word 0x00EE)).fault ≠ none := by decide

theorem witness_StepKeepsTheInvariant : (word 0x6005).Inv ∧ ∃ t, step (word 0x6005) = .next t :=
  ⟨⟨by decide, by decide, by decide, ⟨by decide, by decide, by decide⟩⟩, _, rfl⟩

theorem witness_TransactionRunsKeepTheInvariant :
    (word 0x6005).Inv ∧
    ∃ t, runTransactions [.load [1#8] 0x300, .step, .setKey 3 true, .tickTimers, .reset] (word 0x6005) = .next t :=
  ⟨⟨by decide, by decide, by decide, ⟨by decide, by decide, by decide⟩⟩, _, rfl⟩

theorem witness_EachPieceOfStateButPcHasItsWriters :
    (∃ t, exec (.ldImm 0 1#8) State.reset = .next t ∧ t.v ≠ State.reset.v) ∧
    (∃ t, exec .ret State.reset = .next t ∧ t.halt ≠ State.reset.halt ∧ t.faultKind ≠ State.reset.faultKind) ∧
    (∃ t, exec (.drw 0 0 1) (index 0x1000#16 State.reset) = .next t ∧ t.faultAddr ≠ State.reset.faultAddr) ∧
    (∃ t, exec (.call 0x300#12) State.reset = .next t ∧ t.stack ≠ State.reset.stack ∧ t.sp ≠ State.reset.sp) ∧
    (∃ t, exec .cls (lit [(1, 1)] State.reset) = .next t ∧ t.fb ≠ (lit [(1, 1)] State.reset).fb) ∧
    (∃ t, exec (.ldDtVx 0) (regs [(0, 1#8)] State.reset) = .next t ∧ t.dt ≠ State.reset.dt) ∧
    (∃ t, exec (.ldStVx 0) (regs [(0, 1#8)] State.reset) = .next t ∧ t.st ≠ State.reset.st) ∧
    (∃ t, exec (.stRegs 0) (regs [(0, 1#8)] State.reset) = .next t ∧ t.memory ≠ State.reset.memory) ∧
    (∃ t, exec (.ldI 1#12) State.reset = .next t ∧ t.i ≠ State.reset.i) ∧
    (∃ t, exec (.rnd 0 0#8) State.reset = .next t ∧ t.randomDraws ≠ State.reset.randomDraws) :=
  ⟨⟨_, rfl, by decide⟩, ⟨_, rfl, by decide⟩, ⟨_, rfl, by decide⟩, ⟨_, rfl, by decide⟩, ⟨_, rfl, by decide⟩, ⟨_, rfl, by decide⟩,
    ⟨_, rfl, by decide⟩, ⟨_, rfl, by decide⟩, ⟨_, rfl, by decide⟩, ⟨_, rfl, by decide⟩⟩

theorem witness_VfChangesOnlyAsFlagOrDestination :
    (∃ t, exec (.sub 0 1) State.reset = .next t ∧ t.reg 15 ≠ State.reset.reg 15) ∧
    (∃ t, exec (.ldImm 15 7#8) State.reset = .next t ∧ t.reg 15 ≠ State.reset.reg 15) :=
  ⟨⟨_, rfl, by decide⟩, ⟨_, rfl, by decide⟩⟩

theorem witness_SoundTimerIsNotObservable : ∃ t, step (word 0xF018) = .next t := ⟨_, rfl⟩

theorem witness_RandomSourceReachesRandomMaskOnly :
    (∃ t, step (word 0x6005) = .next t) ∧ ∀ x nn, decode (word 0x6005).fetchWord ≠ .instr (.rnd x nn) :=
  ⟨⟨_, rfl⟩, fun x nn h => by
    rw [show decode (word 0x6005).fetchWord = .instr (.ldImm 0 5#8) by decide] at h
    cases h⟩

theorem witness_SelfJumpIsAFixedPoint : (word 0x1200).AtSelfJump := ⟨by decide, by decide, by decide⟩

end Sys2Proof.Tests
end

section
/-! SUPPORT. The decoder against the opcode table (30_encoding.md R94 to R98, R102), in both directions: what a decoded word
says about its row, and what the row of a word says about the decoder. -/

namespace Sys2Proof.Proofs.Dispatch

/-- `w & mask = match` of the instruction's row (R102), and the operands are the word's fields. -/
def MatchesRow (iw : Word) (i : Instr) : Prop := iw &&& i.mask = i.matchBits ∧ i = i.withFields iw

variable {iw : Word} {i : Instr}

/-! ### A decoded word matches its row -/

theorem match_of_decodeGroup0 (hg : Field.group iw = 0x0#4) (h : decodeGroup0 iw = .instr i) : MatchesRow iw i := by
  unfold decodeGroup0 at h
  split at h <;> cases h
  all_goals
    simp only [MatchesRow, Instr.mask, Instr.matchBits]
    exact ⟨(mask_F0FF_iff rfl).2 ⟨hg, by assumption⟩, rfl⟩

theorem match_of_decodeGroup8 (hg : Field.group iw = 0x8#4) (h : decodeGroup8 iw = .instr i) : MatchesRow iw i := by
  unfold decodeGroup8 at h
  split at h <;> cases h
  all_goals
    simp only [MatchesRow, Instr.mask, Instr.matchBits]
    exact ⟨(mask_F00F_iff rfl).2 ⟨hg, by assumption⟩, rfl⟩

theorem match_of_decodeGroupE (hg : Field.group iw = 0xE#4) (h : decodeGroupE iw = .instr i) : MatchesRow iw i := by
  unfold decodeGroupE at h
  split at h <;> cases h
  all_goals
    simp only [MatchesRow, Instr.mask, Instr.matchBits]
    exact ⟨(mask_F0FF_iff rfl).2 ⟨hg, by assumption⟩, rfl⟩

theorem match_of_decodeGroupF (hg : Field.group iw = 0xF#4) (h : decodeGroupF iw = .instr i) : MatchesRow iw i := by
  unfold decodeGroupF at h
  split at h <;> cases h
  all_goals
    simp only [MatchesRow, Instr.mask, Instr.matchBits]
    exact ⟨(mask_F0FF_iff rfl).2 ⟨hg, by assumption⟩, rfl⟩

/-- The split is the first level of R94: groups 0, 8, E and F have a second level, the others are decided by the group alone. -/
theorem match_of_decode (h : decode iw = .instr i) : MatchesRow iw i := by
  unfold decode at h
  split at h
  case h_1 hg => exact match_of_decodeGroup0 hg h
  case h_9 hg => exact match_of_decodeGroup8 hg h
  case h_15 hg => exact match_of_decodeGroupE hg h
  case h_16 hg => exact match_of_decodeGroupF hg h
  all_goals cases h
  all_goals
    simp only [MatchesRow, Instr.mask, Instr.matchBits]
    exact ⟨(mask_F000_iff rfl).2 (by assumption), rfl⟩

/-! ### A word that matches a row is decoded to it -/

theorem decode_of_group0 (hg : Field.group iw = 0x0#4) : decode iw = decodeGroup0 iw := by simp only [decode, hg]
theorem decode_of_group8 (hg : Field.group iw = 0x8#4) : decode iw = decodeGroup8 iw := by simp only [decode, hg]
theorem decode_of_groupE (hg : Field.group iw = 0xE#4) : decode iw = decodeGroupE iw := by simp only [decode, hg]
theorem decode_of_groupF (hg : Field.group iw = 0xF#4) : decode iw = decodeGroupF iw := by simp only [decode, hg]

/-- The cases are the table's rows by their mask and first-level group; the mask says which fields the word shares with the
match value, and the decoder looks at no others. -/
theorem decode_of_match (h : iw &&& i.mask = i.matchBits) : decode iw = .instr (i.withFields iw) := by
  cases i with
  | cls | ret =>
    simp only [Instr.mask, Instr.matchBits] at h
    obtain ⟨hg, hn⟩ := (mask_F0FF_iff rfl).1 h
    rw [decode_of_group0 hg, decodeGroup0, hn]
    rfl
  | ldReg | orReg | andReg | xorReg | addReg | sub | shr | subn | shl =>
    simp only [Instr.mask, Instr.matchBits] at h
    obtain ⟨hg, hn⟩ := (mask_F00F_iff rfl).1 h
    rw [decode_of_group8 hg, decodeGroup8, hn]
    rfl
  | skp | sknp =>
    simp only [Instr.mask, Instr.matchBits] at h
    obtain ⟨hg, hn⟩ := (mask_F0FF_iff rfl).1 h
    rw [decode_of_groupE hg, decodeGroupE, hn]
    rfl
  | ldVxDt | ldVxK | ldDtVx | ldStVx | addI | ldF | ldB | stRegs | ldRegs =>
    simp only [Instr.mask, Instr.matchBits] at h
    obtain ⟨hg, hn⟩ := (mask_F0FF_iff rfl).1 h
    rw [decode_of_groupF hg, decodeGroupF, hn]
    rfl
  | jp | call | seImm | sneImm | seReg | ldImm | addImm | sneReg | ldI | jpV0 | rnd | drw =>
    simp only [Instr.mask, Instr.matchBits] at h
    rw [decode, (mask_F000_iff rfl).1 h]
    rfl

end Sys2Proof.Proofs.Dispatch

namespace Sys2Proof.Proofs

/-- Settles O16: a decoded word matches its row's mask (`match_of_decode`), and a word that matches a row is decoded to that
row with the word's fields (`decode_of_match`). -/
theorem dispatchSelectsExactlyTheTablesRow : Obligations.DispatchSelectsExactlyTheTablesRow := by
  intro iw i
  constructor
  · exact Dispatch.match_of_decode
  · rintro ⟨hmatch, hfields⟩
    rw [Dispatch.decode_of_match hmatch, ← hfields]

end Sys2Proof.Proofs
end

section
/-! SUPPORT. Control flow (40_control_flow.md): the row of each word, what a jump and a skip leave unchanged, and the meaning of
the jumps and of the skips on an immediate. -/

open Sys2Proof.Machine Sys2Proof.Claims

namespace Sys2Proof.Proofs.Control

/-- A row of the opcode table selects its instruction: `decode_of_match` in the form the statements use. -/
theorem selects_row (i : Instr) : Selects i.mask i.matchBits i.withFields := fun _ h => Dispatch.decode_of_match h

variable (s : State)

/-! ### What `jump` and `skipIf` leave unchanged -/

theorem noFlag_jump (w : Word) : NoFlag s (s.jump w) := State.reg_jump s 15 w

theorem noFault_jump (w : Word) : NoFault s (s.jump w) :=
  ⟨State.jump_halt s w, State.jump_faultKind s w, State.jump_faultAddr s w⟩

theorem noFlag_skipIf (c : Bool) : NoFlag s (s.skipIf c) := State.reg_skipIf s 15 c

theorem noFault_skipIf (c : Bool) : NoFault s (s.skipIf c) :=
  ⟨State.skipIf_halt s c, State.skipIf_faultKind s c, State.skipIf_faultAddr s c⟩

/-! ### Where they lead -/

/-- The target of 1nnn as a number (30_encoding.md R93). -/
@[simp] theorem address_toNat (nnn : BitVec 12) : (address nnn).toNat = nnn.toNat :=
  BitVec.toNat_setWidth_of_le (by decide)

/-- An 8-bit value keeps its number when widened (00_scope.md R10). -/
@[simp] theorem widen_toNat (b : Byte) : (widen b).toNat = b.toNat := BitVec.toNat_setWidth_of_le (by decide)

/-- The sum of Bnnn is at most 0x0FFF + 0xFF and does not wrap (40_control_flow.md R127). -/
theorem address_add_widen_toNat (nnn : BitVec 12) (b : Byte) : (address nnn + widen b).toNat = nnn.toNat + b.toNat := by
  have hnnn := nnn.isLt
  have hb := b.isLt
  rw [BitVec.toNat_add, address_toNat, widen_toNat]
  omega

/-- A skip whose Boolean condition says `p` goes where `p` says (10_state.md R26). -/
theorem skipIf_pc_of_iff {c : Bool} {p : Prop} [Decidable p] (h : c = true ↔ p) :
    (s.skipIf c).pc = if p then s.pc + 4#16 else s.pc + 2#16 := by
  simp only [State.skipIf_pc, h]

theorem beq_iff_toNat_eq (a b : Byte) : (a == b) = true ↔ a.toNat = b.toNat := beq_iff_eq.trans BitVec.toNat_inj.symm

theorem bne_iff_toNat_ne (a b : Byte) : (a != b) = true ↔ a.toNat ≠ b.toNat := bne_iff_ne.trans BitVec.toNat_ne_iff_ne.symm

/-! ### The meanings (R121, R127, R123, R124) -/

theorem exec_jp (nnn : BitVec 12) : exec (.jp nnn) s = .next (s.jump (address nnn)) := rfl

theorem exec_jpV0 (nnn : BitVec 12) : exec (.jpV0 nnn) s = .next (s.jump (address nnn + widen (s.reg 0))) := rfl

theorem exec_seImm (x : RegIdx) (nn : Byte) : exec (.seImm x nn) s = .next (s.skipIf (s.reg x == nn)) := rfl

theorem exec_sneImm (x : RegIdx) (nn : Byte) : exec (.sneImm x nn) s = .next (s.skipIf (s.reg x != nn)) := rfl

end Sys2Proof.Proofs.Control

namespace Sys2Proof.Proofs

/-- Settles O21: both instructions are a `jump`, which writes `pc` only, and the sum of Bnnn does not wrap
(`address_add_widen_toNat`). -/
theorem jumpsSetPcToTheirTarget : Obligations.JumpsSetPcToTheirTarget := by
  refine ⟨Control.selects_row (.jp 0#12), Control.selects_row (.jpV0 0#12), fun s nnn => ⟨?jp, ?jpV0⟩⟩
  case jp =>
    exact ⟨_, Control.exec_jp s nnn, Control.address_toNat nnn, Control.noFlag_jump s _, Control.noFault_jump s _⟩
  case jpV0 =>
    exact ⟨_, Control.exec_jpV0 s nnn, Control.address_add_widen_toNat nnn (s.reg 0), Control.noFlag_jump s _,
      Control.noFault_jump s _⟩

/-- Settles O25: both instructions are a `skipIf`, which writes `pc` only, on a comparison of bytes that is one of numbers. -/
theorem immediateSkipsCompareOneRegister : Obligations.ImmediateSkipsCompareOneRegister := by
  refine ⟨Control.selects_row (.seImm 0 0#8), Control.selects_row (.sneImm 0 0#8), fun s x nn => ⟨?seImm, ?sneImm⟩⟩
  case seImm =>
    exact ⟨_, Control.exec_seImm s x nn, Control.skipIf_pc_of_iff s (Control.beq_iff_toNat_eq _ _),
      Control.noFlag_skipIf s _, Control.noFault_skipIf s _⟩
  case sneImm =>
    exact ⟨_, Control.exec_sneImm s x nn, Control.skipIf_pc_of_iff s (Control.bne_iff_toNat_ne _ _),
      Control.noFlag_skipIf s _, Control.noFault_skipIf s _⟩

end Sys2Proof.Proofs
end

section
/-! SUPPORT. The ALU (41_alu.md): what a register write leaves unchanged, the result and the flag of the flag writers, and the
results bit by bit or as numbers. -/

open Sys2Proof.Machine Sys2Proof.Claims

namespace Sys2Proof.Proofs.Alu

variable (s : State) (x y : RegIdx) (a b f nn : Byte)

/-! ### One register written, then the default advance -/

theorem reg_setReg_advance : (s.setReg x b).advance.reg x = b := State.reg_setReg_self s x b

theorem noFlag_setReg_advance (hx : x ≠ 15) : NoFlag s (s.setReg x b).advance := State.reg_setReg_other s hx.symm b

theorem noFault_setReg_advance : NoFault s (s.setReg x b).advance :=
  ⟨State.setReg_halt s x b, State.setReg_faultKind s x b, State.setReg_faultAddr s x b⟩

/-- The part that 6xnn, 7xnn and 8xy0 to 8xy3 share: `pc + 2`, no flag unless VF is the destination, no fault. -/
theorem setReg_advance_effect :
    (s.setReg x b).advance.pc = s.pc + 2#16 ∧ (x ≠ 15 → NoFlag s (s.setReg x b).advance) ∧
      NoFault s (s.setReg x b).advance :=
  ⟨rfl, noFlag_setReg_advance s x b, noFault_setReg_advance s x b⟩

/-! ### A result and a flag, the destination another register than VF -/

variable {x} in
/-- The order of the two writes matters only when VF is the destination (R165). -/
theorem setReg_setFlag_of_ne (hx : x ≠ 15) : (s.setFlag f).setReg x b = (s.setReg x b).setFlag f := by
  have hval : (15 : RegIdx).val ≠ x.val := fun h => hx (Fin.ext h.symm)
  exact congrArg (fun v => { s with v }) (Vector.set_comm f b hval)

variable {x} in
theorem reg_result_of_ne (hx : x ≠ 15) : ((s.setReg x b).setFlag f).advance.reg x = b := by
  rw [State.reg_advance, State.setFlag_eq, State.reg_setReg_other _ hx, State.reg_setReg_self]

theorem reg_flag : ((s.setReg x b).setFlag f).advance.reg 15 = f := State.reg_setReg_self _ 15 f

/-! ### Addition (R161) -/

theorem carryFlag_eq_one_iff : carryFlag a b = 1#8 ↔ a.toNat + b.toNat > 255 :=
  (flagByte_eq_one_iff _).trans decide_eq_true_iff

/-- The two forms of the carry that R161 calls equivalent. -/
theorem sum_exceeds_iff_result_lt : a.toNat + b.toNat > 255 ↔ (a + b).toNat < a.toNat := by
  have ha := a.isLt
  have hb := b.isLt
  rw [BitVec.toNat_add]
  omega

/-! ### Subtraction (R162) -/

theorem sub_toNat_eq_ite :
    (a - b).toNat = if b.toNat ≤ a.toNat then a.toNat - b.toNat else a.toNat + 256 - b.toNat := by
  have ha := a.isLt
  have hb := b.isLt
  rw [BitVec.toNat_sub]
  split <;> omega

theorem notBorrowFlag_eq_ite : notBorrowFlag a b = if b.toNat > a.toNat then 0#8 else 1#8 := by
  by_cases h : b.toNat > a.toNat <;> simp [notBorrowFlag, flagByte, h]

/-! ### Shifts (R163) -/

theorem getLsbD_shr_one (k : Nat) : (a >>> 1).getLsbD k = a.getLsbD (k + 1) := by
  rw [BitVec.getLsbD_ushiftRight, Nat.add_comm]

theorem getLsbD_shr_one_seven : (a >>> 1).getLsbD 7 = false :=
  (getLsbD_shr_one a 7).trans (BitVec.getLsbD_of_ge a 8 (Nat.le_refl 8))

theorem getLsbD_shl_one_zero : (a <<< 1).getLsbD 0 = false := by simp

theorem getLsbD_shl_one_succ {k : Nat} (hk : k < 7) : (a <<< 1).getLsbD (k + 1) = a.getLsbD k := by
  have hk8 : k + 1 < 8 := by omega
  simp only [BitVec.getLsbD_shiftLeft, hk8, Nat.not_lt.2 (Nat.le_add_left 1 k), Nat.add_sub_cancel, decide_true, decide_false,
    Bool.not_false, Bool.true_and]

/-! ### The meanings (R140 to R150) -/

theorem exec_ldImm : exec (.ldImm x nn) s = .next (s.setReg x nn).advance := rfl

theorem exec_addImm : exec (.addImm x nn) s = .next (s.setReg x (s.reg x + nn)).advance := rfl

theorem exec_ldReg : exec (.ldReg x y) s = .next (s.setReg x (s.reg y)).advance := rfl

theorem exec_orReg : exec (.orReg x y) s = .next (s.setReg x (s.reg x ||| s.reg y)).advance := rfl

theorem exec_andReg : exec (.andReg x y) s = .next (s.setReg x (s.reg x &&& s.reg y)).advance := rfl

theorem exec_xorReg : exec (.xorReg x y) s = .next (s.setReg x (s.reg x ^^^ s.reg y)).advance := rfl

theorem exec_addReg : exec (.addReg x y) s =
    .next ((s.setReg x (s.reg x + s.reg y)).setFlag (carryFlag (s.reg x) (s.reg y))).advance := rfl

theorem exec_sub : exec (.sub x y) s =
    .next ((s.setReg x (s.reg x - s.reg y)).setFlag (notBorrowFlag (s.reg x) (s.reg y))).advance := rfl

theorem exec_subn : exec (.subn x y) s =
    .next ((s.setReg x (s.reg y - s.reg x)).setFlag (notBorrowFlag (s.reg y) (s.reg x))).advance := rfl

theorem exec_shr : exec (.shr x y) s =
    .next ((s.setFlag (shiftedOutRight (s.reg x))).setReg x (s.reg x >>> 1)).advance := rfl

theorem exec_shl : exec (.shl x y) s =
    .next ((s.setFlag (shiftedOutLeft (s.reg x))).setReg x (s.reg x <<< 1)).advance := rfl

variable {x} in
theorem exec_shr_of_ne (hx : x ≠ 15) : exec (.shr x y) s =
    .next ((s.setReg x (s.reg x >>> 1)).setFlag (shiftedOutRight (s.reg x))).advance := by
  rw [exec_shr, setReg_setFlag_of_ne s _ _ hx]

variable {x} in
theorem exec_shl_of_ne (hx : x ≠ 15) : exec (.shl x y) s =
    .next ((s.setReg x (s.reg x <<< 1)).setFlag (shiftedOutLeft (s.reg x))).advance := by
  rw [exec_shl, setReg_setFlag_of_ne s _ _ hx]

end Sys2Proof.Proofs.Alu

namespace Sys2Proof.Proofs

/-- Settles O29: the sum of bytes is the sum modulo 256, its carry has the two forms of `sum_exceeds_iff_result_lt`, and the
flag is written after the result, to another register. -/
theorem additionGivesTheSumAndTheCarry : Obligations.AdditionGivesTheSumAndTheCarry := by
  refine ⟨Control.selects_row (.addImm 0 0#8), fun s x y hx => ?addReg, fun s x nn => ?addImm⟩
  case addReg =>
    refine ⟨_, Alu.exec_addReg s x y, ?_⟩
    rw [Alu.reg_result_of_ne s _ _ hx, Alu.reg_flag]
    have hcarry := Alu.carryFlag_eq_one_iff (s.reg x) (s.reg y)
    exact ⟨BitVec.toNat_add _ _, hcarry, hcarry.trans (Alu.sum_exceeds_iff_result_lt _ _), flagByte_zero_or_one _⟩
  case addImm =>
    refine ⟨_, Alu.exec_addImm s x nn, ?_, Alu.setReg_advance_effect s x _⟩
    rw [Alu.reg_setReg_advance]
    exact BitVec.toNat_add _ _

/-- Settles O30: 8xy5 and 8xy7 are one subtraction with its operands exchanged (`sub_toNat_eq_ite`, `notBorrowFlag_eq_ite`). -/
theorem subtractionGivesTheDifferenceAndNotBorrow : Obligations.SubtractionGivesTheDifferenceAndNotBorrow := by
  refine ⟨fun s x y hx => ⟨_, Alu.exec_sub s x y, ?_⟩, fun s x y hx => ⟨_, Alu.exec_subn s x y, ?_⟩⟩
  all_goals
    rw [Alu.reg_result_of_ne s _ _ hx, Alu.reg_flag]
    exact ⟨Alu.sub_toNat_eq_ite _ _, Alu.notBorrowFlag_eq_ite _ _⟩

/-- Settles O31: neither equation of the shifts mentions `y`, and with a destination other than VF the flag written first
stays. -/
theorem shiftsMoveByOneBit : Obligations.ShiftsMoveByOneBit := by
  intro s x y y' hx
  constructor
  · refine ⟨_, Alu.exec_shr_of_ne s y hx, Alu.exec_shr_of_ne s y' hx, ?_⟩
    rw [Alu.reg_result_of_ne s _ _ hx, Alu.reg_flag]
    exact ⟨Alu.getLsbD_shr_one_seven _, fun k _ => Alu.getLsbD_shr_one _ k, rfl⟩
  · refine ⟨_, Alu.exec_shl_of_ne s y hx, Alu.exec_shl_of_ne s y' hx, ?_⟩
    rw [Alu.reg_result_of_ne s _ _ hx, Alu.reg_flag]
    exact ⟨Alu.getLsbD_shl_one_zero _, fun k hk => Alu.getLsbD_shl_one_succ _ hk, rfl⟩

/-- Settles O32: each operation is a register write of the bitwise result. -/
theorem bitwiseOperationsActOnEachBitAndWriteNoFlag : Obligations.BitwiseOperationsActOnEachBitAndWriteNoFlag := by
  refine ⟨Control.selects_row (.orReg 0 0), Control.selects_row (.andReg 0 0), Control.selects_row (.xorReg 0 0),
    fun s x y => ⟨?or, ?and, ?xor⟩⟩
  case or =>
    refine ⟨_, Alu.exec_orReg s x y, fun k _ => ?_, Alu.setReg_advance_effect s x _⟩
    rw [Alu.reg_setReg_advance, BitVec.getLsbD_or]
  case and =>
    refine ⟨_, Alu.exec_andReg s x y, fun k _ => ?_, Alu.setReg_advance_effect s x _⟩
    rw [Alu.reg_setReg_advance, BitVec.getLsbD_and]
  case xor =>
    refine ⟨_, Alu.exec_xorReg s x y, fun k _ => ?_, Alu.setReg_advance_effect s x _⟩
    rw [Alu.reg_setReg_advance, BitVec.getLsbD_xor]

/-- Settles O28: both loads are a register write of their source. -/
theorem loadsCopyTheirSource : Obligations.LoadsCopyTheirSource := by
  refine ⟨Control.selects_row (.ldImm 0 0#8), Control.selects_row (.ldReg 0 0), fun s x nn => ?ldImm, fun s x y => ?ldReg⟩
  case ldImm =>
    exact ⟨_, Alu.exec_ldImm s x nn, Alu.reg_setReg_advance s x nn, Alu.setReg_advance_effect s x nn⟩
  case ldReg =>
    exact ⟨_, Alu.exec_ldReg s x y, Alu.reg_setReg_advance s x _, Alu.setReg_advance_effect s x _⟩

end Sys2Proof.Proofs
end

section
/-! SUPPORT. The index register (42_index_memory.md): what a write to I followed by the default advance leaves unchanged, and the
meaning of Annn. -/

open Sys2Proof.Machine Sys2Proof.Claims

namespace Sys2Proof.Proofs.Index

variable (s : State) (w : Word)

/-! ### I written, then the default advance -/

theorem noFlag_setI_advance : NoFlag s { s with i := w }.advance := State.reg_advance { s with i := w } 15

theorem noFault_setI_advance : NoFault s { s with i := w }.advance :=
  ⟨State.advance_halt { s with i := w }, State.advance_faultKind { s with i := w }, State.advance_faultAddr { s with i := w }⟩

/-! ### The meaning (R170) -/

theorem exec_ldI (nnn : BitVec 12) : exec (.ldI nnn) s = .next { s with i := address nnn }.advance := rfl

end Sys2Proof.Proofs.Index

namespace Sys2Proof.Proofs

/-- Settles O36: the instruction is a write to I followed by the default advance, and a 12-bit address keeps its number when
widened (`address_toNat`). -/
theorem loadIndexSetsI : Obligations.LoadIndexSetsI := by
  refine ⟨Control.selects_row (.ldI 0#12), fun s nnn => ⟨_, Index.exec_ldI s nnn, ?i, ?pc, ?noFlag, ?noFault⟩⟩
  case i =>
    rw [State.advance_i]
    exact Control.address_toNat nnn
  case pc => exact State.advance_pc _
  case noFlag => exact Index.noFlag_setI_advance s _
  case noFault => exact Index.noFault_setI_advance s _

end Sys2Proof.Proofs
end

section
/-! SUPPORT. The timers (44_keypad_timers.md): what a write to DT or to ST followed by the default advance leaves unchanged, and
the meanings of Fx07, Fx15 and Fx18. -/

open Sys2Proof.Machine Sys2Proof.Claims

namespace Sys2Proof.Proofs.Timers

variable (s : State) (x : RegIdx) (b : Byte)

/-! ### One timer or one register written, then the default advance -/

/-- The part that Fx15 and Fx18 share, each with the other timer kept: `pc + 2`, no flag, no fault. -/
theorem setTimers_advance_effect (d e : Byte) :
    { s with dt := d, st := e }.advance.pc = s.pc + 2#16 ∧ NoFlag s { s with dt := d, st := e }.advance ∧
      NoFault s { s with dt := d, st := e }.advance :=
  ⟨State.advance_pc _, State.reg_advance { s with dt := d, st := e } 15, State.advance_halt _, State.advance_faultKind _,
    State.advance_faultAddr _⟩

theorem dt_setReg_advance : (s.setReg x b).advance.dt = s.dt := (State.advance_dt _).trans (State.setReg_dt s x b)

/-! ### The meanings (R205 to R207) -/

theorem exec_ldVxDt : exec (.ldVxDt x) s = .next (s.setReg x s.dt).advance := rfl

theorem exec_ldDtVx : exec (.ldDtVx x) s = .next { s with dt := s.reg x }.advance := rfl

theorem exec_ldStVx : exec (.ldStVx x) s = .next { s with st := s.reg x }.advance := rfl

end Sys2Proof.Proofs.Timers

namespace Sys2Proof.Proofs

/-- Settles O49: Fx07 is a register write of DT, Fx15 and Fx18 are a write of one timer, each followed by the default advance. -/
theorem timerInstructionsMoveOneByte : Obligations.TimerInstructionsMoveOneByte := by
  refine ⟨Control.selects_row (.ldVxDt 0), Control.selects_row (.ldDtVx 0), Control.selects_row (.ldStVx 0),
    fun s x => ⟨?ldVxDt, ?ldDtVx, ?ldStVx⟩⟩
  case ldVxDt =>
    exact ⟨_, Timers.exec_ldVxDt s x, Alu.reg_setReg_advance s x s.dt, Timers.dt_setReg_advance s x s.dt,
      Alu.setReg_advance_effect s x s.dt⟩
  case ldDtVx =>
    exact ⟨_, Timers.exec_ldDtVx s x, State.advance_dt _, Timers.setTimers_advance_effect s (s.reg x) s.st⟩
  case ldStVx =>
    exact ⟨_, Timers.exec_ldStVx s x, State.advance_st _, Timers.setTimers_advance_effect s s.dt (s.reg x)⟩

end Sys2Proof.Proofs
end

section
/-! SUPPORT. One step, one instruction and one host operation from the outside: everything each can answer, and what that means
for the timers (60_exceptions.md R235). -/

open Sys2Proof.Machine Sys2Proof.Claims

namespace Sys2Proof.Proofs.Step

variable {s t : State}

/-! ### The step in each of its cases (10_state.md R21, 60_exceptions.md R230) -/

theorem step_of_halt (hhalt : s.halt = true) : step s = .next s := by simp only [step, hhalt, if_true, haltedStep]

theorem step_of_fetch_exceeds (hhalt : s.halt = false) (hpc : 0xFFE < s.pc.toNat) :
    step s = .next (takeFault (.outOfBounds (offendingAddress s.pc)) s) := by
  simp only [step, hhalt, Bool.false_eq_true, if_false, State.fetch_of_gt s hpc, fetchFault]

theorem step_of_unknownOpcode {iw : Word} (hhalt : s.halt = false) (hpc : s.pc.toNat ≤ 0xFFE)
    (hdecode : decode s.fetchWord = .unknownOpcode iw) : step s = .next s.advance := by
  simp only [step, hhalt, Bool.false_eq_true, if_false, State.fetch_of_le s hpc, hdecode, unknownOpcode]

theorem step_of_instr {i : Instr} (hhalt : s.halt = false) (hpc : s.pc.toNat ≤ 0xFFE)
    (hdecode : decode s.fetchWord = .instr i) : step s = exec i s := by
  simp only [step, hhalt, Bool.false_eq_true, if_false, State.fetch_of_le s hpc, hdecode]

/-- Everything a step can answer: nothing, the fault of the fetch, the default advance, or what its instruction answers. -/
theorem step_cases (h : step s = .next t) :
    (s.halt = true ∧ t = s) ∨
    (s.halt = false ∧ 0xFFE < s.pc.toNat ∧ t = takeFault (.outOfBounds (offendingAddress s.pc)) s) ∨
    (s.halt = false ∧ s.pc.toNat ≤ 0xFFE ∧ (∃ iw, decode s.fetchWord = .unknownOpcode iw) ∧ t = s.advance) ∨
    (s.halt = false ∧ s.pc.toNat ≤ 0xFFE ∧ ∃ i, decode s.fetchWord = .instr i ∧ exec i s = .next t) := by
  cases hhalt : s.halt with
  | true =>
    rw [step_of_halt hhalt] at h
    cases h
    exact .inl ⟨rfl, rfl⟩
  | false =>
    refine .inr ?_
    rcases Nat.lt_or_ge 0xFFE s.pc.toNat with hpc | hpc
    · rw [step_of_fetch_exceeds hhalt hpc] at h
      cases h
      exact .inl ⟨rfl, hpc, rfl⟩
    · refine .inr ?_
      cases hdecode : decode s.fetchWord with
      | unknownOpcode iw =>
        rw [step_of_unknownOpcode hhalt hpc hdecode] at h
        cases h
        exact .inl ⟨rfl, hpc, ⟨iw, rfl⟩, rfl⟩
      | instr i => exact .inr ⟨rfl, hpc, i, rfl, step_of_instr hhalt hpc hdecode ▸ h⟩

/-! ### The instructions with two answers that are no checked access (R120, R122, R203) -/

theorem execRet_cases (h : execRet s = .next t) :
    (s.sp = 0 ∧ t = takeFault .stackUnderflow s) ∨
    ∃ hsp : 0 < s.sp.val, t = State.jump { s with sp := ⟨s.sp.val - 1, by omega⟩ } s.stack[s.sp.val - 1] := by
  unfold execRet at h
  by_cases hsp : s.sp = 0
  · rw [State.pop_empty s hsp] at h
    cases h
    exact .inl ⟨hsp, rfl⟩
  · have hpos : 0 < s.sp.val := Fin.pos_iff_ne_zero.2 hsp
    rw [State.pop_of_pos s hpos] at h
    cases h
    exact .inr ⟨hpos, rfl⟩

theorem execCall_cases {nnn : BitVec 12} (h : execCall nnn s = .next t) :
    (s.sp = 16 ∧ t = takeFault .stackOverflow s) ∨
    ∃ hsp : s.sp.val < 16, t = State.jump
      { s with stack := s.stack.set s.sp.val (s.pc + 2#16), sp := ⟨s.sp.val + 1, by omega⟩ } (address nnn) := by
  unfold execCall at h
  by_cases hsp : s.sp = 16
  · rw [State.push_full s _ hsp] at h
    cases h
    exact .inl ⟨hsp, rfl⟩
  · have hlt : s.sp.val < 16 := Fin.lt_last_iff_ne_last.2 hsp
    rw [State.push_of_lt s _ hlt] at h
    cases h
    exact .inr ⟨hlt, rfl⟩

theorem execLdVxK_cases {x : RegIdx} (h : execLdVxK x s = .next t) :
    (s.lowestKey = none ∧ t = s) ∨ ∃ k, s.lowestKey = some k ∧ t = (s.setReg x (BitVec.ofNat 8 k.val)).advance := by
  unfold execLdVxK at h
  cases hkey : s.lowestKey with
  | none =>
    rw [hkey] at h
    cases h
    exact .inl ⟨rfl, rfl⟩
  | some k =>
    rw [hkey] at h
    cases h
    exact .inr ⟨k, rfl, rfl⟩

end Sys2Proof.Proofs.Step

namespace Sys2Proof.Proofs.Transactions

variable {s t : State}

/-! ### What `load` and `set_key` can answer (70_reset_and_hazards.md R266, 60_exceptions.md R237) -/

theorem loadTransaction_cases {bytes : List Byte} {offset : Nat} (h : loadTransaction bytes offset s = .next t) :
    (offset + bytes.length ≤ 0xFFF ∧ t = s.storeBytes offset bytes) ∨ (0x1000 < offset + bytes.length ∧ t = s) := by
  unfold loadTransaction at h
  split at h
  · next hfits =>
    cases h
    exact .inl ⟨hfits, rfl⟩
  · next hexceeds =>
    split at h
    · cases h
    · next hboundary =>
      cases h
      exact .inr ⟨by omega, rfl⟩

theorem setKey_cases {k : Nat} {p : Bool} (h : setKey k p s = .next t) :
    ∃ hk : k < 16, t = { s with keys := s.keys.set k p } := by
  unfold setKey at h
  split at h
  · next hk =>
    cases h
    exact ⟨hk, rfl⟩
  · cases h

/-! ### One tick (60_exceptions.md R235) -/

theorem ticked_toNat (b : Byte) : (ticked b).toNat = b.toNat - 1 := by
  unfold ticked
  split
  · next hzero => rw [hzero]; rfl
  · next hpos =>
    have hb := b.isLt
    have hne : b.toNat ≠ 0 := fun h => hpos (BitVec.eq_of_toNat_eq h)
    rw [BitVec.toNat_sub, BitVec.toNat_ofNat]
    omega

/-! ### The read ports (60_exceptions.md R236, R238) -/

theorem soundActive_iff (s : State) : soundActive s = true ↔ s.st ≠ 0#8 := bne_iff_ne

theorem length_framebufferCells (s : State) : (framebufferCells s).length = 2048 := by
  rw [framebufferCells, List.length_map, List.length_range]

/-- Row-major order: `x` is the remainder and `y` the quotient of the index by 64. -/
theorem getElem?_framebufferCells (s : State) (x : Fin 64) (y : Fin 32) :
    (framebufferCells s)[x.val + y.val * 64]? = some (s.pixel x y) := by
  have hx := x.isLt
  have hy := y.isLt
  have hindex : x.val + y.val * 64 < 2048 := by omega
  have hcolumn : Fin.ofNat 64 (x.val + y.val * 64) = x := Fin.ext (by rw [Fin.val_ofNat]; omega)
  have hrow : Fin.ofNat 32 ((x.val + y.val * 64) / 64) = y := Fin.ext (by rw [Fin.val_ofNat]; omega)
  rw [framebufferCells, List.getElem?_map, List.getElem?_range hindex, Option.map_some, hcolumn, hrow]

/-- Besides `step` and `reset`, no transaction writes the framebuffer. -/
theorem fb_of_hostOperation {r : Transaction} (hstep : r ≠ .step) (hreset : r ≠ .reset)
    (h : applyTransaction r s = .next t) : t.fb = s.fb := by
  cases r with
  | step => exact absurd rfl hstep
  | reset => exact absurd rfl hreset
  | load bytes offset =>
    obtain ⟨-, rfl⟩ | ⟨-, rfl⟩ := loadTransaction_cases h
    · exact State.storeBytes_fb s offset bytes
    · rfl
  | tickTimers =>
    cases h
    rfl
  | setKey k p =>
    obtain ⟨-, rfl⟩ := setKey_cases h
    rfl

end Sys2Proof.Proofs.Transactions

namespace Sys2Proof.Proofs.Timers

/-! ### Which transactions keep both timers -/

/-- Both timers keep their value. -/
def KeepsTimers (s t : State) : Prop := t.dt = s.dt ∧ t.st = s.st

variable {s t : State}

theorem keepsTimers_withAccess {base : Word} {n : Nat} {e : State} (he : KeepsTimers s e)
    (h : withAccess base n s e = .next t) : KeepsTimers s t := by
  obtain ⟨-, rfl⟩ | ⟨-, rfl⟩ := withAccess_cases s h
  · exact he
  · exact ⟨takeFault_dt s _, takeFault_st s _⟩

theorem keepsTimers_execRet (h : execRet s = .next t) : KeepsTimers s t := by
  obtain ⟨-, rfl⟩ | ⟨-, rfl⟩ := Step.execRet_cases h <;> exact ⟨rfl, rfl⟩

theorem keepsTimers_execCall {nnn : BitVec 12} (h : execCall nnn s = .next t) : KeepsTimers s t := by
  obtain ⟨-, rfl⟩ | ⟨-, rfl⟩ := Step.execCall_cases h <;> exact ⟨rfl, rfl⟩

theorem keepsTimers_execLdVxK {x : RegIdx} (h : execLdVxK x s = .next t) : KeepsTimers s t := by
  obtain ⟨-, rfl⟩ | ⟨-, -, rfl⟩ := Step.execLdVxK_cases h <;> exact ⟨rfl, rfl⟩

/-- Every instruction but Fx15 and Fx18 keeps both timers, and each of these two writes Vx to its own and keeps the other. The
cases are: the two writers, the checked accesses, the three with two answers, and the instructions with one answer. -/
theorem exec_timer_cases {i : Instr} (h : exec i s = .next t) :
    KeepsTimers s t ∨ (∃ x, i = .ldDtVx x ∧ t.dt = s.reg x ∧ t.st = s.st) ∨
      (∃ x, i = .ldStVx x ∧ t.st = s.reg x ∧ t.dt = s.dt) := by
  cases i with
  | ldDtVx x =>
    cases h
    exact .inr (.inl ⟨x, rfl, rfl, rfl⟩)
  | ldStVx x =>
    cases h
    exact .inr (.inr ⟨x, rfl, rfl, rfl⟩)
  | drw | ldB | stRegs | ldRegs =>
    refine .inl (keepsTimers_withAccess ?_ h)
    exact ⟨rfl, rfl⟩
  | ret => exact .inl (keepsTimers_execRet h)
  | call => exact .inl (keepsTimers_execCall h)
  | ldVxK => exact .inl (keepsTimers_execLdVxK h)
  | cls | jp | seImm | sneImm | seReg | ldImm | addImm | ldReg | orReg | andReg | xorReg | addReg | sub | shr | subn | shl
  | sneReg | ldI | jpV0 | rnd | skp | sknp | ldVxDt | addI | ldF =>
    cases h
    exact .inl ⟨rfl, rfl⟩

/-- The same of a step: it keeps both timers unless it runs an Fx15 or an Fx18. -/
theorem step_timer_cases (h : step s = .next t) :
    KeepsTimers s t ∨ (∃ x, decode s.fetchWord = .instr (.ldDtVx x) ∧ t.dt = s.reg x ∧ t.st = s.st) ∨
      (∃ x, decode s.fetchWord = .instr (.ldStVx x) ∧ t.st = s.reg x ∧ t.dt = s.dt) := by
  obtain ⟨-, rfl⟩ | ⟨-, -, rfl⟩ | ⟨-, -, -, rfl⟩ | ⟨-, -, i, hdecode, hexec⟩ := Step.step_cases h
  · exact .inl ⟨rfl, rfl⟩
  · exact .inl ⟨takeFault_dt s _, takeFault_st s _⟩
  · exact .inl ⟨State.advance_dt s, State.advance_st s⟩
  · obtain hkeeps | ⟨x, rfl, hwrite⟩ | ⟨x, rfl, hwrite⟩ := exec_timer_cases hexec
    · exact .inl hkeeps
    · exact .inr (.inl ⟨x, hdecode, hwrite⟩)
    · exact .inr (.inr ⟨x, hdecode, hwrite⟩)

theorem keepsTimers_load {bytes : List Byte} {offset : Nat} (h : loadTransaction bytes offset s = .next t) :
    KeepsTimers s t := by
  obtain ⟨-, rfl⟩ | ⟨-, rfl⟩ := Transactions.loadTransaction_cases h
  · exact ⟨State.storeBytes_dt s offset bytes, State.storeBytes_st s offset bytes⟩
  · exact ⟨rfl, rfl⟩

theorem keepsTimers_setKey {k : Nat} {p : Bool} (h : setKey k p s = .next t) : KeepsTimers s t := by
  obtain ⟨-, rfl⟩ := Transactions.setKey_cases h
  exact ⟨rfl, rfl⟩

end Sys2Proof.Proofs.Timers

namespace Sys2Proof.Proofs

/-- Settles O2: a tick is `ticked_toNat` on each timer, and a step that moves a timer is one of the two writers
(`step_timer_cases`). -/
theorem timersMoveByTickAndTimerWritesOnly : Obligations.TimersMoveByTickAndTimerWritesOnly := by
  refine ⟨fun s => ⟨Transactions.ticked_toNat s.dt, Transactions.ticked_toNat s.st, rfl⟩, fun s t h => ?step,
    fun s t bytes offset h => Timers.keepsTimers_load h, fun s t k p h => Timers.keepsTimers_setKey h⟩
  obtain ⟨hdt, hst⟩ | ⟨x, hdecode, hdt, hst⟩ | ⟨x, hdecode, hst, hdt⟩ := Timers.step_timer_cases h
  · exact ⟨fun hne => absurd hdt hne, fun hne => absurd hst hne⟩
  · exact ⟨fun _ => ⟨x, hdecode, hdt⟩, fun hne => absurd hst hne⟩
  · exact ⟨fun hne => absurd hdt hne, fun _ => ⟨x, hdecode, hst⟩⟩

/-- Settles O5: the port lists the cells in row-major order (`getElem?_framebufferCells`), and the transactions other than `step`
and `reset` write memory, the timers or a key only (`fb_of_hostOperation`). -/
theorem soundAndFramebufferPortsShowTheState : Obligations.SoundAndFramebufferPortsShowTheState :=
  ⟨Transactions.soundActive_iff, fun s => ⟨Transactions.length_framebufferCells s, Transactions.getElem?_framebufferCells s⟩,
    fun _ _ _ => Transactions.fb_of_hostOperation⟩

end Sys2Proof.Proofs
end

section
/-! SUPPORT. The decoder and the encoder against each other (30_encoding.md R92, R95 to R100, R102): the row of an encoded word,
the fields a word is put together from again, and which words are unknown. -/

open Sys2Proof.Machine Sys2Proof.Claims

namespace Sys2Proof.Proofs.Encoding

/-! ### Decoding an encoded instruction -/

/-- Every encoded word selects its own row of the table: the rows of `Laws.Table`, collected. -/
theorem encode_matches_row (i : Instr) : Laws.Table.Statement i := by
  cases i
  exacts [Laws.Table.cls, Laws.Table.ret, Laws.Table.jp _, Laws.Table.call _, Laws.Table.seImm _ _, Laws.Table.sneImm _ _,
    Laws.Table.seReg _ _, Laws.Table.ldImm _ _, Laws.Table.addImm _ _, Laws.Table.ldReg _ _, Laws.Table.orReg _ _,
    Laws.Table.andReg _ _, Laws.Table.xorReg _ _, Laws.Table.addReg _ _, Laws.Table.sub _ _, Laws.Table.shr _ _,
    Laws.Table.subn _ _, Laws.Table.shl _ _, Laws.Table.sneReg _ _, Laws.Table.ldI _, Laws.Table.jpV0 _, Laws.Table.rnd _ _,
    Laws.Table.drw _ _ _, Laws.Table.skp _, Laws.Table.sknp _, Laws.Table.ldVxDt _, Laws.Table.ldVxK _, Laws.Table.ldDtVx _,
    Laws.Table.ldStVx _, Laws.Table.addI _, Laws.Table.ldF _, Laws.Table.ldB _, Laws.Table.stRegs _, Laws.Table.ldRegs _]

/-- The fields of an encoded word are the operands. Well-formedness is needed for the row count of Dxyn only, which the encoder
cuts to 4 bits. -/
theorem withFields_encode {i : Instr} (hwf : i.WellFormed) : i.withFields (encode i) = i := by
  cases i with
  | drw x y n =>
    have hn : n ≤ 15 := of_decide_eq_true hwf
    have hcount : (BitVec.ofNat 4 n).toNat = n := (BitVec.toNat_ofNat n 4).trans (Nat.mod_eq_of_lt (by omega))
    simp only [encode, Instr.withFields, x_formatXYN, y_formatXYN, n_formatXYN, hcount]
  | cls | ret => rfl
  | jp | call | ldI | jpV0 => simp only [encode, Instr.withFields, nnn_formatNNN]
  | seImm | sneImm | ldImm | addImm | rnd => simp only [encode, Instr.withFields, x_formatXNN, nn_formatXNN]
  | skp | sknp | ldVxDt | ldVxK | ldDtVx | ldStVx | addI | ldF | ldB | stRegs | ldRegs =>
    simp only [encode, Instr.withFields, x_formatXNN]
  | seReg | sneReg | ldReg | orReg | andReg | xorReg | addReg | sub | shr | subn | shl =>
    simp only [encode, Instr.withFields, x_formatXYN, y_formatXYN]

theorem decode_encode {i : Instr} (hwf : i.WellFormed) : decode (encode i) = .instr i := by
  rw [Dispatch.decode_of_match (encode_matches_row i), withFields_encode hwf]

/-- A word is the word of its two bytes (R67). -/
theorem wordOfBytes_extract (iw : Word) : wordOfBytes (iw.extractLsb' 8 8) (iw.extractLsb' 0 8) = iw := by
  have hiw := iw.isLt
  apply BitVec.eq_of_toNat_eq
  rw [wordOfBytes_toNat, BitVec.extractLsb'_toNat, BitVec.extractLsb'_toNat, Nat.shiftRight_eq_div_pow,
    Nat.shiftRight_eq_div_pow]
  omega

/-- Decoding the bytes of a word that decodes to an instruction. -/
theorem decodeBytes_bytesOfWord {iw : Word} {i : Instr} (h : decode iw = .instr i) (rest : List Byte) :
    decodeBytes (bytesOfWord iw ++ rest) = .instr i rest := by
  simp only [bytesOfWord, List.cons_append, List.nil_append, decodeBytes, wordOfBytes_extract, h]

/-- Bytes that decode to an instruction are those of its word. -/
theorem decode_of_decodeBytes {b0 b1 : Byte} {i : Instr} {rest rest' : List Byte}
    (h : decodeBytes (b0 :: b1 :: rest) = .instr i rest') : decode (wordOfBytes b0 b1) = .instr i := by
  cases hdecode : decode (wordOfBytes b0 b1) with
  | instr j =>
    simp only [decodeBytes, hdecode, DecodedBytes.instr.injEq] at h
    rw [h.1]
  | unknownOpcode iw => simp [decodeBytes, hdecode] at h

/-! ### Encoding a decoded word: a word is its format's fields put together -/

variable (iw : Word)

theorem formatNNN_fields : formatNNN (Field.group iw) (Field.nnn iw) = iw :=
  word_ext_nnn (group_formatNNN _ _) (nnn_formatNNN _ _)

theorem formatXNN_fields : formatXNN (Field.group iw) (Field.x iw) (Field.nn iw) = iw := by
  apply BitVec.eq_of_toNat_eq
  rw [formatXNN_toNat, group_toNat, x_val, nn_toNat]
  omega

theorem formatXYN_fields : formatXYN (Field.group iw) (Field.x iw) (Field.y iw) (Field.n iw) = iw := by
  apply BitVec.eq_of_toNat_eq
  rw [formatXYN_toNat, group_toNat, x_val, y_val, n_toNat]
  omega

/-! ### The mask of the rows whose low nibble is ignored (R99) -/

theorem group_and_FFF0 : Field.group (iw &&& 0xFFF0#16) = Field.group iw := by
  rw [group_and, show Field.group 0xFFF0#16 = BitVec.allOnes 4 by decide, BitVec.and_allOnes]

theorem x_and_FFF0 : Field.x (iw &&& 0xFFF0#16) = Field.x iw := by
  rw [Field.x, BitVec.extractLsb'_and, show BitVec.extractLsb' 8 4 0xFFF0#16 = BitVec.allOnes 4 by decide, BitVec.and_allOnes,
    Field.x]

theorem y_and_FFF0 : Field.y (iw &&& 0xFFF0#16) = Field.y iw := by
  rw [Field.y, BitVec.extractLsb'_and, show BitVec.extractLsb' 4 4 0xFFF0#16 = BitVec.allOnes 4 by decide, BitVec.and_allOnes,
    Field.y]

theorem n_and_FFF0 : Field.n (iw &&& 0xFFF0#16) = 0#4 := by
  rw [n_and, show Field.n 0xFFF0#16 = 0#4 by decide, BitVec.and_zero]

/-- Clearing the low nibble gives the word of the format with low nibble 0. -/
theorem and_FFF0_eq_format : iw &&& 0xFFF0#16 = formatXYN (Field.group iw) (Field.x iw) (Field.y iw) 0#4 := by
  rw [← formatXYN_fields (iw &&& 0xFFF0#16), group_and_FFF0, x_and_FFF0, y_and_FFF0, n_and_FFF0]

/-! ### The canonical word of a decoded word (R99) -/

variable {iw} {i : Instr}

/-- The operands of a decoded instruction are fields of a word, so the row count of Dxyn is below 16. -/
theorem wellFormed_withFields (iw : Word) (i : Instr) : (i.withFields iw).WellFormed := by
  cases i with
  | drw => exact decide_eq_true (Nat.le_of_lt_succ (Field.n iw).isLt)
  | cls | ret | jp | call | seImm | sneImm | seReg | ldImm | addImm | ldReg | orReg | andReg | xorReg | addReg | sub | shr
  | subn | shl | sneReg | ldI | jpV0 | rnd | skp | sknp | ldVxDt | ldVxK | ldDtVx | ldStVx | addI | ldF | ldB | stRegs
  | ldRegs => rfl

/-- The cases are the formats: the mask of the row gives the fields that the format takes from the table, and the other fields
are the word's. -/
theorem encode_withFields (h : iw &&& i.mask = i.matchBits) : encode (i.withFields iw) = iw &&& decidedBits i := by
  cases i with
  | cls | ret => exact h.symm
  | seReg | sneReg =>
    simp only [Instr.mask, Instr.matchBits] at h
    rw [decidedBits, and_FFF0_eq_format, (mask_F000_iff rfl).1 h]
    rfl
  | jp | call | ldI | jpV0 =>
    simp only [Instr.mask, Instr.matchBits] at h
    have hword := formatNNN_fields iw
    rw [(mask_F000_iff rfl).1 h] at hword
    exact hword.trans BitVec.and_allOnes.symm
  | seImm | sneImm | ldImm | addImm | rnd =>
    simp only [Instr.mask, Instr.matchBits] at h
    have hword := formatXNN_fields iw
    rw [(mask_F000_iff rfl).1 h] at hword
    exact hword.trans BitVec.and_allOnes.symm
  | drw =>
    simp only [Instr.mask, Instr.matchBits] at h
    have hword := formatXYN_fields iw
    rw [(mask_F000_iff rfl).1 h] at hword
    rw [Instr.withFields, encode, BitVec.ofNat_toNat, BitVec.setWidth_eq]
    exact hword.trans BitVec.and_allOnes.symm
  | ldReg | orReg | andReg | xorReg | addReg | sub | shr | subn | shl =>
    simp only [Instr.mask, Instr.matchBits] at h
    obtain ⟨hg, hn⟩ := (mask_F00F_iff rfl).1 h
    have hword := formatXYN_fields iw
    rw [hg, hn] at hword
    exact hword.trans BitVec.and_allOnes.symm
  | skp | sknp | ldVxDt | ldVxK | ldDtVx | ldStVx | addI | ldF | ldB | stRegs | ldRegs =>
    simp only [Instr.mask, Instr.matchBits] at h
    obtain ⟨hg, hn⟩ := (mask_F0FF_iff rfl).1 h
    have hword := formatXNN_fields iw
    rw [hg, hn] at hword
    exact hword.trans BitVec.and_allOnes.symm

/-- Which bits are ignored depends on the row, not on the operands. -/
theorem decidedBits_withFields (iw : Word) (i : Instr) : decidedBits (i.withFields iw) = decidedBits i := by
  cases i <;> rfl

/-! ### Unknown words (R95 to R98, R100) -/

variable (iw)

theorem decodeGroup0_unknown_iff : (∃ w, decodeGroup0 iw = .unknownOpcode w) ↔ Field.nn iw ∉ [0xE0#8, 0xEE#8] := by
  unfold decodeGroup0
  split <;> simp_all

theorem decodeGroup8_unknown_iff : (∃ w, decodeGroup8 iw = .unknownOpcode w) ↔
    Field.n iw ∈ [0x8#4, 0x9#4, 0xA#4, 0xB#4, 0xC#4, 0xD#4, 0xF#4] := by
  unfold decodeGroup8
  generalize Field.n iw = n
  split
  case h_10 =>
    refine iff_of_true ⟨iw, rfl⟩ ?_
    revert n
    decide
  all_goals simp

theorem decodeGroupE_unknown_iff : (∃ w, decodeGroupE iw = .unknownOpcode w) ↔ Field.nn iw ∉ [0x9E#8, 0xA1#8] := by
  unfold decodeGroupE
  split <;> simp_all

theorem decodeGroupF_unknown_iff : (∃ w, decodeGroupF iw = .unknownOpcode w) ↔
    Field.nn iw ∉ [0x07#8, 0x0A#8, 0x15#8, 0x18#8, 0x1E#8, 0x29#8, 0x33#8, 0x55#8, 0x65#8] := by
  unfold decodeGroupF
  split <;> simp_all

/-- The unknown-opcode condition carries the word that was decoded. -/
theorem unknownOpcode_word {w : Word} (h : decode iw = .unknownOpcode w) : w = iw := by
  unfold decode at h
  split at h
  case h_1 =>
    unfold decodeGroup0 at h
    split at h <;> cases h
    rfl
  case h_9 =>
    unfold decodeGroup8 at h
    split at h <;> cases h
    rfl
  case h_15 =>
    unfold decodeGroupE at h
    split at h <;> cases h
    rfl
  case h_16 =>
    unfold decodeGroupF at h
    split at h <;> cases h
    rfl
  all_goals cases h
  rfl

/-- The 16 groups are all there are. -/
theorem group_cases (g : BitVec 4) : g ∈ [0x0#4, 0x1#4, 0x2#4, 0x3#4, 0x4#4, 0x5#4, 0x6#4, 0x7#4, 0x8#4, 0x9#4, 0xA#4, 0xB#4,
    0xC#4, 0xD#4, 0xE#4, 0xF#4] := by
  revert g
  decide

/-! ### Words that differ in ignored bits (R99) -/

/-- Two words that match the same row and have the row's operands in common decode alike. -/
theorem decode_eq_of_match {a b : Word} {i : Instr} (ha : a &&& i.mask = i.matchBits) (hb : b &&& i.mask = i.matchBits)
    (hfields : i.withFields a = i.withFields b) : decode a = decode b := by
  rw [Dispatch.decode_of_match ha, Dispatch.decode_of_match hb, hfields]

/-- The fields that take part in decoding groups 5 and 9 lie above the low nibble. -/
theorem fields_eq_of_and_FFF0_eq {a b : Word} (h : a &&& 0xFFF0#16 = b &&& 0xFFF0#16) :
    Field.group a = Field.group b ∧ Field.x a = Field.x b ∧ Field.y a = Field.y b := by
  rw [← group_and_FFF0 a, ← x_and_FFF0 a, ← y_and_FFF0 a, h]
  exact ⟨group_and_FFF0 b, x_and_FFF0 b, y_and_FFF0 b⟩

end Sys2Proof.Proofs.Encoding

namespace Sys2Proof.Proofs

/-- Settles O15: an encoded word matches its row (`encode_matches_row`), whose fields are the operands (`withFields_encode`), and
it is the word of its own two bytes. -/
theorem decodeOfEncodeIsTheInstruction : Obligations.DecodeOfEncodeIsTheInstruction := by
  intro i rest hwf
  have hdecode := Encoding.decode_encode hwf
  exact ⟨hdecode, Encoding.decodeBytes_bytesOfWord hdecode rest⟩

/-- Settles O19: a decoded word matches its row with the operands in its fields, and a format puts its fields together again
(`encode_withFields`). -/
theorem canonicalWordClearsTheIgnoredBits : Obligations.CanonicalWordClearsTheIgnoredBits := by
  intro iw i h
  obtain ⟨hmatch, hfields⟩ := Dispatch.match_of_decode h
  rw [hfields, Encoding.encode_withFields hmatch, Encoding.decidedBits_withFields]
  exact ⟨Encoding.wellFormed_withFields iw i, rfl⟩

/-- Settles O17: the four groups with a second level have each its own unknown words, and the other groups have none. -/
theorem unknownWordsAreTheFourSets : Obligations.UnknownWordsAreTheFourSets := by
  intro iw
  unfold decode
  split
  case h_1 hg => simpa [hg] using Encoding.decodeGroup0_unknown_iff iw
  case h_9 hg => simpa [hg] using Encoding.decodeGroup8_unknown_iff iw
  case h_15 hg => simpa [hg] using Encoding.decodeGroupE_unknown_iff iw
  case h_16 hg => simpa [hg] using Encoding.decodeGroupF_unknown_iff iw
  case h_17 =>
    have hgroup := Encoding.group_cases (Field.group iw)
    simp_all
  all_goals
    next hg => simp [hg]

/-- Settles O20: both words match the same row, and the fields the row takes its operands from agree. -/
theorem aliasWordsDecodeAlike : Obligations.AliasWordsDecodeAlike := by
  constructor
  · intro a b hgroup h
    obtain ⟨hg, hx, hy⟩ := Encoding.fields_eq_of_and_FFF0_eq h
    obtain h5 | h9 := hgroup
    · exact Encoding.decode_eq_of_match (i := .seReg 0 0) ((mask_F000_iff rfl).2 h5) ((mask_F000_iff rfl).2 (hg.symm.trans h5))
        (by rw [Instr.withFields, Instr.withFields, hx, hy])
    · exact Encoding.decode_eq_of_match (i := .sneReg 0 0) ((mask_F000_iff rfl).2 h9) ((mask_F000_iff rfl).2 (hg.symm.trans h9))
        (by rw [Instr.withFields, Instr.withFields, hx, hy])
  · intro a b hgroup hlow h
    obtain hE0 | hEE := hlow
    · have ha : a &&& Instr.cls.mask = Instr.cls.matchBits := (mask_F0FF_iff rfl).2 ⟨hgroup, hE0⟩
      exact Encoding.decode_eq_of_match ha (h.symm.trans ha) rfl
    · have ha : a &&& Instr.ret.mask = Instr.ret.matchBits := (mask_F0FF_iff rfl).2 ⟨hgroup, hEE⟩
      exact Encoding.decode_eq_of_match ha (h.symm.trans ha) rfl

/-- Settles O18: each word is closed, so the decoder computes. -/
theorem wordsWrittenOutDecodeRight : Obligations.WordsWrittenOutDecodeRight := by
  unfold Obligations.WordsWrittenOutDecodeRight
  decide

end Sys2Proof.Proofs
end

section
/-! SUPPORT. What an instruction does, said once: it raises one of the three fatal faults (60_exceptions.md R221 to R223) or
completes, and what it writes when it completes (00_scope.md R14). Then what that says about a step and its outputs. -/

open Sys2Proof.Machine Sys2Proof.Claims

namespace Sys2Proof.Proofs.Calls

variable (s : State)

/-! ### 2nnn and 00EE for each state of the stack (R120, R122) -/

theorem exec_call_of_full (nnn : BitVec 12) (hsp : s.sp = 16) :
    exec (.call nnn) s = .next (takeFault .stackOverflow s) := by
  change execCall nnn s = _
  rw [execCall, State.push_full s _ hsp]

theorem exec_call_of_lt (nnn : BitVec 12) (hsp : s.sp.val < 16) :
    exec (.call nnn) s = .next (State.jump
      { s with stack := s.stack.set s.sp.val (s.pc + 2#16), sp := ⟨s.sp.val + 1, by omega⟩ } (address nnn)) := by
  change execCall nnn s = _
  rw [execCall, State.push_of_lt s _ hsp]

theorem exec_ret_of_empty (hsp : s.sp = 0) : exec .ret s = .next (takeFault .stackUnderflow s) := by
  change execRet s = _
  rw [execRet, State.pop_empty s hsp]

theorem exec_ret_of_pos (hsp : 0 < s.sp.val) :
    exec .ret s = .next (State.jump { s with sp := ⟨s.sp.val - 1, by omega⟩ } s.stack[s.sp.val - 1]) := by
  change execRet s = _
  rw [execRet, State.pop_of_pos s hsp]

end Sys2Proof.Proofs.Calls

namespace Sys2Proof.Proofs.Keypad

variable {s : State}

/-! ### Fx0A without and with a pressed key (R203) -/

theorem exec_ldVxK_of_no_key (x : RegIdx) (h : s.lowestKey = none) : exec (.ldVxK x) s = .next s := by
  change execLdVxK x s = .next s
  rw [execLdVxK, h]

theorem exec_ldVxK_of_key (x : RegIdx) {j : Fin 16} (h : s.lowestKey = some j) :
    exec (.ldVxK x) s = .next (s.setReg x (BitVec.ofNat 8 j.val)).advance := by
  change execLdVxK x s = _
  rw [execLdVxK, h]

end Sys2Proof.Proofs.Keypad

namespace Sys2Proof.Proofs.Effect

/-- The condition under which an instruction raises a fault (R221 to R223), with the address recorded (R229). -/
inductive Raises (s : State) : Instr → Fault → Prop
  /-- An access from I that does not fit in memory. -/
  | outOfBounds {i : Instr} (hcount : accessCount i ≠ 0) (hsum : 0x1000 < s.i.toNat + accessCount i) :
      Raises s i (.outOfBounds (offendingAddress s.i))
  /-- 2nnn on a full stack. -/
  | stackOverflow (nnn : BitVec 12) (hsp : s.sp = 16) : Raises s (.call nnn) .stackOverflow
  /-- 00EE on an empty stack. -/
  | stackUnderflow (hsp : s.sp = 0) : Raises s .ret .stackUnderflow

/-- The bytes an instruction touches are none, or lie in memory (20_memory.md R63, R70). -/
def Fits (s : State) (i : Instr) : Prop := accessCount i = 0 ∨ s.i.toNat + accessCount i ≤ 0x1000

/-- The states in which an instruction can complete: one constructor per kind of write, the values that no statement asks for
left open. -/
inductive Completes (s : State) : Instr → State → Prop
  /-- 00E0. -/
  | clear (fb : Framebuffer) : Completes s .cls { s with fb := fb }.advance
  /-- 00EE with an entry on the stack. -/
  | ret (hsp : 0 < s.sp.val) :
      Completes s .ret (State.jump { s with sp := ⟨s.sp.val - 1, by omega⟩ } s.stack[s.sp.val - 1])
  /-- 2nnn with a free entry on the stack. -/
  | call (nnn : BitVec 12) (hsp : s.sp.val < 16) :
      Completes s (.call nnn)
        (State.jump { s with stack := s.stack.set s.sp.val (s.pc + 2#16), sp := ⟨s.sp.val + 1, by omega⟩ } (address nnn))
  /-- The other jumps and the skips: only `pc`, to a sum of Bnnn at most or past this instruction or the next. -/
  | control {i : Instr} {w : Word} (haccess : accessCount i = 0)
      (hw : w.toNat ≤ 0x10FE ∨ w = s.pc + 2#16 ∨ w = s.pc + 4#16) : Completes s i (s.jump w)
  /-- The register instructions: the destination, VF for a flag writer, the count of draws for Cxnn. -/
  | register {i : Instr} {x : RegIdx} {v : Vector Byte 16} {k : Nat} (hdest : registerDestination i = some x)
      (hothers : ∀ r : RegIdx, r ≠ x → (writesFlag i = true → r ≠ 15) → v[r] = s.v[r])
      (hdraws : (∀ nn, i ≠ .rnd x nn) → k = s.randomDraws) :
      Completes s i { s with v := v, pc := s.pc + 2#16, randomDraws := k }
  /-- Annn, Fx1E and Fx29. -/
  | index {i : Instr} (w : Word) (hi : (∃ nnn, i = .ldI nnn) ∨ ∃ x, i = .addI x ∨ i = .ldF x) :
      Completes s i { s with i := w }.advance
  /-- Fx15. -/
  | delayTimer (x : RegIdx) : Completes s (.ldDtVx x) { s with dt := s.reg x }.advance
  /-- Fx18. -/
  | soundTimer (x : RegIdx) : Completes s (.ldStVx x) { s with st := s.reg x }.advance
  /-- Fx0A with no key pressed. -/
  | keyWait (x : RegIdx) : Completes s (.ldVxK x) s
  /-- Fx0A with a key pressed. -/
  | keyRead (x : RegIdx) (b : Byte) : Completes s (.ldVxK x) (s.setReg x b).advance
  /-- Fx33 and Fx55. -/
  | store {i : Instr} {bytes : List Byte} (hi : ∃ x, i = .ldB x ∨ i = .stRegs x) (hfits : Fits s i)
      (hlength : bytes.length = accessCount i) : Completes s i (s.storeBytes s.base bytes).advance
  /-- Fx65. -/
  | loadRegs (x : RegIdx) (v : Vector Byte 16) (hfits : Fits s (.ldRegs x)) (habove : ∀ r : RegIdx, x < r → v[r] = s.v[r]) :
      Completes s (.ldRegs x) { s with v := v }.advance
  /-- Dxyn. -/
  | draw (x y : RegIdx) (n : Nat) (fb : Framebuffer) (flag : Byte) (hfits : Fits s (.drw x y n)) :
      Completes s (.drw x y n) ({ s with fb := fb }.setFlag flag).advance

variable {s t : State} {i : Instr}

/-! ### The register instructions (41_alu.md, Fx07) -/

theorem reg_others_setReg (x : RegIdx) (b : Byte) {r : RegIdx} (hr : r ≠ x) : (s.setReg x b).v[r] = s.v[r] :=
  State.reg_setReg_other s hr b

/-- Of a result and a flag, in either order. -/
theorem reg_others_setReg_setReg {x x' : RegIdx} (b b' : Byte) {r : RegIdx} (hr : r ≠ x) (hr' : r ≠ x') :
    ((s.setReg x b).setReg x' b').v[r] = s.v[r] :=
  (reg_others_setReg x' b' hr').trans (reg_others_setReg x b hr)

/-- The cases are: one register written; a result and then a flag; a flag and then a result; and Cxnn, which also samples the
random source. -/
theorem exec_register {x : RegIdx} (hdest : registerDestination i = some x) :
    ∃ (v : Vector Byte 16) (k : Nat), exec i s = .next { s with v := v, pc := s.pc + 2#16, randomDraws := k } ∧
      (∀ r : RegIdx, r ≠ x → (writesFlag i = true → r ≠ 15) → v[r] = s.v[r]) ∧
      ((∀ nn, i ≠ .rnd x nn) → k = s.randomDraws) := by
  cases i with
  | ldImm | addImm | ldReg | orReg | andReg | xorReg | ldVxDt =>
    cases hdest
    exact ⟨_, _, rfl, fun r hr _ => reg_others_setReg _ _ hr, fun _ => rfl⟩
  | addReg | sub | subn =>
    cases hdest
    exact ⟨_, _, rfl, fun r hr hflag => reg_others_setReg_setReg _ _ hr (hflag rfl), fun _ => rfl⟩
  | shr | shl =>
    cases hdest
    exact ⟨_, _, rfl, fun r hr hflag => reg_others_setReg_setReg _ _ (hflag rfl) hr, fun _ => rfl⟩
  | rnd x nn =>
    cases hdest
    exact ⟨_, _, rfl, fun r hr _ => reg_others_setReg _ _ hr, fun hno => absurd rfl (hno nn)⟩
  | cls | ret | jp | call | seImm | sneImm | seReg | sneReg | ldI | jpV0 | drw | skp | sknp | ldVxK | ldDtVx | ldStVx | addI
  | ldF | ldB | stRegs | ldRegs => cases hdest

theorem completes_register {x : RegIdx} (hdest : registerDestination i = some x) (h : exec i s = .next t) :
    Completes s i t := by
  obtain ⟨v, k, hexec, hothers, hdraws⟩ := exec_register (s := s) hdest
  cases h.symm.trans hexec
  exact .register hdest hothers hdraws

/-- The registers above the range of Fx65. -/
theorem reg_above_setRegsUpTo {x r : RegIdx} (bytes : List Byte) (hr : x < r) : (s.setRegsUpTo x bytes).v[r] = s.v[r] :=
  (State.reg_setRegsUpTo s x r bytes).trans (if_neg (not_le.2 hr))

/-! ### Every instruction -/

/-- What a checked access says about its instruction. -/
theorem access_cases {e : State} (h : withAccess s.i (accessCount i) s e = .next t) :
    (∃ f, Raises s i f ∧ t = takeFault f s) ∨ (Fits s i ∧ t = e) := by
  obtain ⟨hfits, rfl⟩ | ⟨hexceeds, rfl⟩ := withAccess_cases s h
  · exact .inr ⟨hfits, rfl⟩
  · obtain ⟨hcount, hsum⟩ := not_or.1 hexceeds
    exact .inl ⟨_, .outOfBounds hcount (Nat.lt_of_not_le hsum), rfl⟩

theorem skip_target (c : Bool) : (s.skipIf c).pc = s.pc + 2#16 ∨ (s.skipIf c).pc = s.pc + 4#16 := by
  cases c
  · exact .inl rfl
  · exact .inr rfl

theorem jpV0_target_le (nnn : BitVec 12) (b : Byte) : (address nnn + widen b).toNat ≤ 0x10FE := by
  have hnnn := nnn.isLt
  have hb := b.isLt
  rw [Control.address_add_widen_toNat]
  omega

theorem jp_target_le (nnn : BitVec 12) : (address nnn).toNat ≤ 0xFFF := by
  have hnnn := nnn.isLt
  rw [Control.address_toNat]
  omega

/-- Everything an instruction can answer. -/
theorem exec_cases (h : exec i s = .next t) : (∃ f, Raises s i f ∧ t = takeFault f s) ∨ Completes s i t := by
  cases i with
  | ret =>
    obtain ⟨hsp, rfl⟩ | ⟨hsp, rfl⟩ := Step.execRet_cases h
    · exact .inl ⟨_, .stackUnderflow hsp, rfl⟩
    · exact .inr (.ret hsp)
  | call nnn =>
    obtain ⟨hsp, rfl⟩ | ⟨hsp, rfl⟩ := Step.execCall_cases h
    · exact .inl ⟨_, .stackOverflow nnn hsp, rfl⟩
    · exact .inr (.call nnn hsp)
  | drw x y n => exact (access_cases (i := .drw x y n) h).imp_right fun ⟨hfits, ht⟩ => ht ▸ .draw x y n _ _ hfits
  | ldB x =>
    exact (access_cases (i := .ldB x) h).imp_right fun ⟨hfits, ht⟩ => ht ▸ .store ⟨x, .inl rfl⟩ hfits rfl
  | stRegs x =>
    exact (access_cases (i := .stRegs x) h).imp_right fun ⟨hfits, ht⟩ =>
      ht ▸ .store ⟨x, .inr rfl⟩ hfits (State.length_regsUpTo s x)
  | ldRegs x =>
    exact (access_cases (i := .ldRegs x) h).imp_right fun ⟨hfits, ht⟩ =>
      ht ▸ .loadRegs x _ hfits fun r hr => reg_above_setRegsUpTo _ hr
  | ldVxK x =>
    obtain ⟨-, rfl⟩ | ⟨k, -, rfl⟩ := Step.execLdVxK_cases h
    · exact .inr (.keyWait x)
    · exact .inr (.keyRead x _)
  | cls => cases h; exact .inr (.clear _)
  | jp nnn => cases h; exact .inr (.control rfl (.inl (Nat.le_trans (jp_target_le nnn) (by decide))))
  | jpV0 nnn => cases h; exact .inr (.control rfl (.inl (jpV0_target_le nnn _)))
  | seImm | sneImm | seReg | sneReg | skp | sknp => cases h; exact .inr (.control rfl (.inr (skip_target _)))
  | ldI nnn => cases h; exact .inr (.index _ (.inl ⟨nnn, rfl⟩))
  | addI x => cases h; exact .inr (.index _ (.inr ⟨x, .inl rfl⟩))
  | ldF x => cases h; exact .inr (.index _ (.inr ⟨x, .inr rfl⟩))
  | ldDtVx x => cases h; exact .inr (.delayTimer x)
  | ldStVx x => cases h; exact .inr (.soundTimer x)
  | ldImm | addImm | ldReg | orReg | andReg | xorReg | addReg | sub | shr | subn | shl | rnd | ldVxDt =>
    exact .inr (completes_register rfl h)

/-- An instruction that completes keeps the fault status. -/
theorem Completes.noFault (h : Completes s i t) : NoFault s t := by
  cases h <;> simp [NoFault]

theorem accessCount_of_register {x : RegIdx} (h : registerDestination i = some x) : accessCount i = 0 := by
  cases i with
  | drw | ldB | stRegs | ldRegs => cases h
  | cls | ret | jp | call | seImm | sneImm | seReg | ldImm | addImm | ldReg | orReg | andReg | xorReg | addReg | sub | shr
  | subn | shl | sneReg | ldI | jpV0 | rnd | skp | sknp | ldVxDt | ldVxK | ldDtVx | ldStVx | addI | ldF => rfl

/-- An instruction that completes touches no byte, or bytes in memory only. -/
theorem Completes.fits (h : Completes s i t) : Fits s i := by
  cases h with
  | store _ hfits | loadRegs _ _ hfits | draw _ _ _ _ _ hfits => exact hfits
  | control haccess => exact .inl haccess
  | register hdest => exact .inl (accessCount_of_register hdest)
  | index _ hi => obtain ⟨_, rfl⟩ | ⟨_, rfl | rfl⟩ := hi <;> exact .inl rfl
  | clear | ret | call | delayTimer | soundTimer | keyWait | keyRead => exact .inl rfl

/-! ### Every instruction answers -/

theorem withAccess_total (base : Word) (n : Nat) (s e : State) : ∃ t, withAccess base n s e = .next t := by
  by_cases h : n = 0 ∨ base.toNat + n ≤ 0x1000
  · exact ⟨_, withAccess_fits s h e⟩
  · exact ⟨_, withAccess_exceeds s h e⟩

theorem exec_total (i : Instr) (s : State) : ∃ t, exec i s = .next t := by
  cases i with
  | ret =>
    by_cases hsp : s.sp = 0
    · exact ⟨_, Calls.exec_ret_of_empty s hsp⟩
    · exact ⟨_, Calls.exec_ret_of_pos s (Fin.pos_iff_ne_zero.2 hsp)⟩
  | call nnn =>
    by_cases hsp : s.sp = 16
    · exact ⟨_, Calls.exec_call_of_full s nnn hsp⟩
    · exact ⟨_, Calls.exec_call_of_lt s nnn (Fin.lt_last_iff_ne_last.2 hsp)⟩
  | ldVxK x =>
    cases hkey : s.lowestKey with
    | none => exact ⟨_, Keypad.exec_ldVxK_of_no_key x hkey⟩
    | some k => exact ⟨_, Keypad.exec_ldVxK_of_key x hkey⟩
  | drw | ldB | stRegs | ldRegs => exact withAccess_total _ _ _ _
  | cls | jp | seImm | sneImm | seReg | ldImm | addImm | ldReg | orReg | andReg | xorReg | addReg | sub | shr | subn | shl
  | sneReg | ldI | jpV0 | rnd | skp | sknp | ldVxDt | ldDtVx | ldStVx | addI | ldF => exact ⟨_, rfl⟩

theorem step_total (s : State) : ∃ t, step s = .next t := by
  cases hhalt : s.halt with
  | true => exact ⟨_, Step.step_of_halt hhalt⟩
  | false =>
    rcases Nat.lt_or_ge 0xFFE s.pc.toNat with hpc | hpc
    · exact ⟨_, Step.step_of_fetch_exceeds hhalt hpc⟩
    · cases hdecode : decode s.fetchWord with
      | unknownOpcode iw => exact ⟨_, Step.step_of_unknownOpcode hhalt hpc hdecode⟩
      | instr i =>
        rw [Step.step_of_instr hhalt hpc hdecode]
        exact exec_total i s

end Sys2Proof.Proofs.Effect
end

section
/-! SUPPORT. A step and its outputs (10_state.md R21, R28; 60_exceptions.md R224 to R230): when a step raises which fault, and
what it reports. -/

open Sys2Proof.Machine Sys2Proof.Claims

namespace Sys2Proof.Proofs.Output

variable {s t : State} {i : Instr} {f : Fault}

/-! ### The outputs in each case of the step (10_state.md R28) -/

theorem stepOutput_of_halt (hhalt : s.halt = true) : stepOutput s = StepOutput.silent := by
  simp only [stepOutput, hhalt, if_true]

theorem stepOutput_of_fetch_exceeds (hhalt : s.halt = false) (hpc : 0xFFE < s.pc.toNat) :
    stepOutput s = { StepOutput.silent with fault := faultEvent (fetchFault s) } := by
  simp only [stepOutput, hhalt, Bool.false_eq_true, if_false, State.fetch_of_gt s hpc]

theorem stepOutput_of_unknownOpcode {iw : Word} (hhalt : s.halt = false) (hpc : s.pc.toNat ≤ 0xFFE)
    (hdecode : decode s.fetchWord = .unknownOpcode iw) :
    stepOutput s = { StepOutput.silent with unknownOpcode := some (iw, s.pc) } := by
  simp only [stepOutput, hhalt, Bool.false_eq_true, if_false, State.fetch_of_le s hpc, hdecode]

theorem stepOutput_of_instr (hhalt : s.halt = false) (hpc : s.pc.toNat ≤ 0xFFE) (hdecode : decode s.fetchWord = .instr i) :
    stepOutput s = instrOutput i s := by
  simp only [stepOutput, hhalt, Bool.false_eq_true, if_false, State.fetch_of_le s hpc, hdecode]

theorem faultEvent_takeFault (f : Fault) (s : State) : faultEvent (.next (takeFault f s)) = some (f.kind, f.address) := rfl

theorem isNone_faultEvent (t : State) : (faultEvent (.next t)).isNone = !t.halt := by
  cases h : t.halt <;> simp [faultEvent, h]

/-! ### When a step raises a fault -/

/-- The condition under which a step of a running machine raises a fault (60_exceptions.md R221 to R223, R230). -/
inductive StepRaises (s : State) : Fault → Prop
  /-- The fetch. -/
  | fetch (hpc : 0xFFE < s.pc.toNat) : StepRaises s (.outOfBounds (offendingAddress s.pc))
  /-- The instruction. -/
  | instr {i : Instr} {f : Fault} (hpc : s.pc.toNat ≤ 0xFFE) (hdecode : decode s.fetchWord = .instr i)
      (hraises : Effect.Raises s i f) : StepRaises s f

/-- Everything a step of a running machine can do to the fault status. -/
theorem step_fault_cases (hhalt : s.halt = false) (h : step s = .next t) :
    (∃ f, StepRaises s f ∧ t = takeFault f s) ∨
    (NoFault s t ∧ s.pc.toNat ≤ 0xFFE ∧ ∀ i, decode s.fetchWord = .instr i → Effect.Fits s i) := by
  obtain ⟨hhalted, -⟩ | ⟨-, hpc, rfl⟩ | ⟨-, hpc, ⟨iw, hdecode⟩, rfl⟩ | ⟨-, hpc, i, hdecode, hexec⟩ := Step.step_cases h
  · exact absurd (hhalt.symm.trans hhalted) Bool.false_ne_true
  · exact .inl ⟨_, .fetch hpc, rfl⟩
  · exact .inr ⟨⟨rfl, rfl, rfl⟩, hpc, fun i hi => by cases hdecode.symm.trans hi⟩
  · obtain ⟨f, hraises, rfl⟩ | hcompletes := Effect.exec_cases hexec
    · exact .inl ⟨f, .instr hpc hdecode hraises, rfl⟩
    · refine .inr ⟨hcompletes.noFault, hpc, fun j hj => ?_⟩
      cases hdecode.symm.trans hj
      exact hcompletes.fits

/-- A step that halts a running machine has raised a fault. -/
theorem raises_of_halts (hhalt : s.halt = false) (h : step s = .next t) (hhalted : t.halt = true) :
    ∃ f, StepRaises s f ∧ t = takeFault f s := by
  obtain hraises | ⟨⟨hkept, -, -⟩, -, -⟩ := step_fault_cases hhalt h
  · exact hraises
  · rw [hkept, hhalt] at hhalted
    cases hhalted

/-! ### What a step that raises a fault reports -/

theorem kind_ne_none (f : Fault) : f.kind ≠ .none := by
  cases f <;> simp [Fault.kind]

theorem not_waitsForKey_of_raises (h : Effect.Raises s i f) : Instr.waitsForKey i = false := by
  cases h with
  | stackOverflow | stackUnderflow => rfl
  | outOfBounds hcount =>
    cases i with
    | drw | ldB | stRegs | ldRegs => rfl
    | _ => exact absurd rfl hcount

/-- The fault event and nothing else (R226, R230). -/
theorem stepOutput_of_raises (hhalt : s.halt = false) (hraises : StepRaises s f) (h : step s = .next (takeFault f s)) :
    stepOutput s = { displayChanged := false, unknownOpcode := none, fault := some (f.kind, f.address), keyWait := false } := by
  cases hraises with
  | fetch hpc => exact stepOutput_of_fetch_exceeds hhalt hpc
  | instr hpc hdecode hraises =>
    rw [Step.step_of_instr hhalt hpc hdecode] at h
    rw [stepOutput_of_instr hhalt hpc hdecode, instrOutput, h, faultEvent_takeFault, not_waitsForKey_of_raises hraises]
    simp

/-! ### Which fault a step raises -/

theorem kind_of_raises_access (h : Effect.Raises s i f) (hcount : accessCount i ≠ 0) : f.kind = .outOfBounds := by
  cases h with
  | outOfBounds => rfl
  | stackOverflow | stackUnderflow => exact absurd rfl hcount

theorem stackOverflow_of_stepRaises (h : StepRaises s f) (hkind : f.kind = .stackOverflow) :
    s.sp = 16 ∧ ∃ nnn, decode s.fetchWord = .instr (.call nnn) := by
  cases h with
  | fetch => cases hkind
  | instr hpc hdecode hraises =>
    cases hraises with
    | outOfBounds | stackUnderflow => cases hkind
    | stackOverflow nnn hsp => exact ⟨hsp, nnn, hdecode⟩

theorem stackUnderflow_of_stepRaises (h : StepRaises s f) (hkind : f.kind = .stackUnderflow) :
    s.sp = 0 ∧ decode s.fetchWord = .instr .ret := by
  cases h with
  | fetch => cases hkind
  | instr hpc hdecode hraises =>
    cases hraises with
    | outOfBounds | stackOverflow => cases hkind
    | stackUnderflow hsp => exact ⟨hsp, hdecode⟩

/-- The accesses of R221: a fetch above 0xFFE, or a data access that does not fit. -/
def AccessExceeds (s : State) : Prop :=
  0xFFE < s.pc.toNat ∨
    ∃ i, s.pc.toNat ≤ 0xFFE ∧ decode s.fetchWord = .instr i ∧ accessCount i ≠ 0 ∧ 0x1000 < s.i.toNat + accessCount i

theorem accessExceeds_of_stepRaises (h : StepRaises s f) (hkind : f.kind = .outOfBounds) :
    AccessExceeds s ∧ f.address.toNat = max (if 0xFFE < s.pc.toNat then s.pc.toNat else s.i.toNat) 0x1000 := by
  cases h with
  | fetch hpc =>
    rw [if_pos hpc]
    exact ⟨.inl hpc, offendingAddress_toNat s.pc⟩
  | @instr i _ hpc hdecode hraises =>
    rw [if_neg (Nat.not_lt.2 hpc)]
    cases hraises with
    | outOfBounds hcount hsum => exact ⟨.inr ⟨i, hpc, hdecode, hcount, hsum⟩, offendingAddress_toNat s.i⟩
    | stackOverflow | stackUnderflow => cases hkind

theorem outOfBounds_of_accessExceeds (h : StepRaises s f) (hexceeds : AccessExceeds s) : f.kind = .outOfBounds := by
  cases h with
  | fetch => rfl
  | instr hpc hdecode hraises =>
    obtain hfetch | ⟨j, -, hj, hcount, -⟩ := hexceeds
    · exact absurd hpc (Nat.not_le.2 hfetch)
    · cases hdecode.symm.trans hj
      exact kind_of_raises_access hraises hcount

/-- An access that does not fit keeps the step from leaving the fault status alone. -/
theorem stepRaises_of_accessExceeds (hhalt : s.halt = false) (h : step s = .next t) (hexceeds : AccessExceeds s) :
    ∃ f, StepRaises s f ∧ t = takeFault f s := by
  obtain hraises | ⟨-, hpc, hfits⟩ := step_fault_cases hhalt h
  · exact hraises
  · obtain hfetch | ⟨i, -, hdecode, hcount, hsum⟩ := hexceeds
    · exact absurd hpc (Nat.not_le.2 hfetch)
    · exact absurd (hfits i hdecode) (not_or.2 ⟨hcount, Nat.not_le.2 hsum⟩)

/-! ### Draws and key waits -/

theorem draws_iff : Instr.draws i = true ↔ i = .cls ∨ ∃ x y n, i = .drw x y n := by
  cases i <;> simp [Instr.draws]

theorem waitsForKey_iff : Instr.waitsForKey i = true ↔ ∃ x, i = .ldVxK x := by
  cases i <;> simp [Instr.waitsForKey]

/-- The row Fx0A read both ways (30_encoding.md R102). -/
theorem decode_ldVxK_iff {iw : Word} : (∃ x, decode iw = .instr (.ldVxK x)) ↔ iw &&& 0xF0FF#16 = 0xF00A#16 := by
  constructor
  · rintro ⟨x, hdecode⟩
    exact (Dispatch.match_of_decode hdecode).1
  · intro hmatch
    exact ⟨Field.x iw, Control.selects_row (.ldVxK 0) iw hmatch⟩

theorem stepOutput_of_keyWait (h : s.KeyWait) : (stepOutput s).keyWait = true ∧ step s = .next s := by
  obtain ⟨hhalt, hpc, hword, hkeys⟩ := h
  obtain ⟨x, hdecode⟩ := decode_ldVxK_iff.2 hword
  have hnone := (State.lowestKey_eq_none s).2 hkeys
  rw [stepOutput_of_instr hhalt hpc hdecode, Step.step_of_instr hhalt hpc hdecode, instrOutput, hnone]
  exact ⟨rfl, Keypad.exec_ldVxK_of_no_key x hnone⟩

theorem keyWait_of_stepOutput (h : (stepOutput s).keyWait = true) : s.KeyWait := by
  obtain ⟨t, hstep⟩ := Effect.step_total s
  obtain ⟨hhalt, -⟩ | ⟨hhalt, hpc, -⟩ | ⟨hhalt, hpc, ⟨iw, hdecode⟩, -⟩ | ⟨hhalt, hpc, i, hdecode, -⟩ := Step.step_cases hstep
  · rw [stepOutput_of_halt hhalt] at h
    cases h
  · rw [stepOutput_of_fetch_exceeds hhalt hpc] at h
    cases h
  · rw [stepOutput_of_unknownOpcode hhalt hpc hdecode] at h
    cases h
  · rw [stepOutput_of_instr hhalt hpc hdecode] at h
    obtain ⟨hwaits, hnone⟩ := (Bool.and_eq_true _ _).mp h
    obtain ⟨x, rfl⟩ := waitsForKey_iff.1 hwaits
    exact ⟨hhalt, hpc, decode_ldVxK_iff.1 ⟨x, hdecode⟩, (State.lowestKey_eq_none s).1 (Option.isNone_iff_eq_none.1 hnone)⟩

/-- A step that completes reports a change of the display exactly for 00E0 and Dxyn (43_display.md R193). -/
theorem displayChanged_of_instr (hhalt : s.halt = false) (hpc : s.pc.toNat ≤ 0xFFE) (hdecode : decode s.fetchWord = .instr i)
    (hexec : exec i s = .next t) :
    (stepOutput s).displayChanged = true ↔ t.halt = false ∧ (i = .cls ∨ ∃ x y n, i = .drw x y n) := by
  rw [stepOutput_of_instr hhalt hpc hdecode, instrOutput, hexec, isNone_faultEvent, Bool.and_eq_true, draws_iff,
    Bool.not_eq_true', and_comm]

/-! ### At most one event -/

theorem stepOutput_of_not_halts (h : step s = .next t) (hhalt : t.halt = false) : (stepOutput s).fault = none := by
  obtain ⟨hhalted, rfl⟩ | ⟨-, hpc, rfl⟩ | ⟨hhalt', hpc, ⟨iw, hdecode⟩, -⟩ | ⟨hhalt', hpc, i, hdecode, hexec⟩ :=
    Step.step_cases h
  · rw [stepOutput_of_halt hhalted]
    rfl
  · cases hhalt
  · rw [stepOutput_of_unknownOpcode hhalt' hpc hdecode]
    rfl
  · rw [stepOutput_of_instr hhalt' hpc hdecode, instrOutput, hexec]
    exact Option.isNone_iff_eq_none.1 ((isNone_faultEvent t).trans (congrArg Bool.not hhalt))

/-- An unknown word is reported alone. -/
theorem stepOutput_of_reports_unknown (h : (stepOutput s).unknownOpcode ≠ none) :
    (stepOutput s).displayChanged = false ∧ (stepOutput s).keyWait = false := by
  obtain ⟨t, hstep⟩ := Effect.step_total s
  obtain ⟨hhalt, -⟩ | ⟨hhalt, hpc, -⟩ | ⟨hhalt, hpc, ⟨iw, hdecode⟩, -⟩ | ⟨hhalt, hpc, i, hdecode, -⟩ := Step.step_cases hstep
  · rw [stepOutput_of_halt hhalt]
    exact ⟨rfl, rfl⟩
  · rw [stepOutput_of_fetch_exceeds hhalt hpc]
    exact ⟨rfl, rfl⟩
  · rw [stepOutput_of_unknownOpcode hhalt hpc hdecode]
    exact ⟨rfl, rfl⟩
  · rw [stepOutput_of_instr hhalt hpc hdecode] at h
    exact absurd rfl h

/-! ### A jump to its own address (70_reset_and_hazards.md R270) -/

/-- A `pc` that a fetch can use has 12 bits. -/
theorem address_setWidth_of_le {w : Word} (h : w.toNat ≤ 0xFFE) : address (w.setWidth 12) = w := by
  apply BitVec.eq_of_toNat_eq
  rw [Control.address_toNat, BitVec.toNat_setWidth]
  exact Nat.mod_eq_of_lt (by omega)

end Sys2Proof.Proofs.Output

namespace Sys2Proof.Proofs

/-- Settles O11: the step is total because every instruction is (`exec_total`). -/
theorem everyStepAnswersANextState : Obligations.EveryStepAnswersANextState := Effect.step_total

/-- Settles O12: a step that halts has raised a fault (`raises_of_halts`), which writes the fault status and is reported alone
(`stepOutput_of_raises`). -/
theorem fatalFaultsArePrecise : Obligations.FatalFaultsArePrecise := by
  intro s t hhalt h hhalted
  obtain ⟨f, hraises, rfl⟩ := Output.raises_of_halts hhalt h hhalted
  exact ⟨Output.kind_ne_none f, rfl, Output.stepOutput_of_raises hhalt hraises h⟩

/-- Settles O14: the fault of a step that halts comes from an access that does not fit if its kind is OutOfBounds
(`accessExceeds_of_stepRaises`), and such an access raises a fault of that kind. -/
theorem outOfBoundsIsRaisedByExactlyTheseAccesses : Obligations.OutOfBoundsIsRaisedByExactlyTheseAccesses := by
  intro s t hhalt h
  refine ⟨⟨?raised, ?exceeds⟩, ?address⟩
  case raised =>
    rintro ⟨hhalted, hkind⟩
    obtain ⟨f, hraises, rfl⟩ := Output.raises_of_halts hhalt h hhalted
    exact (Output.accessExceeds_of_stepRaises hraises hkind).1
  case exceeds =>
    intro hexceeds
    obtain ⟨f, hraises, rfl⟩ := Output.stepRaises_of_accessExceeds hhalt h hexceeds
    exact ⟨rfl, Output.outOfBounds_of_accessExceeds hraises hexceeds⟩
  case address =>
    intro hhalted hkind
    obtain ⟨f, hraises, rfl⟩ := Output.raises_of_halts hhalt h hhalted
    exact (Output.accessExceeds_of_stepRaises hraises hkind).2

/-- Settles O8: the unknown-opcode condition carries the word it met, and the step is the default advance. -/
theorem unknownWordIsReportedOnceAndSkipped : Obligations.UnknownWordIsReportedOnceAndSkipped := by
  intro s w hhalt hpc hdecode
  obtain rfl := Encoding.unknownOpcode_word _ hdecode
  exact ⟨rfl, Step.step_of_unknownOpcode hhalt hpc hdecode, Output.stepOutput_of_unknownOpcode hhalt hpc hdecode⟩

/-- Settles O10: the fetch raises its fault before anything else of the step. -/
theorem fetchBeyondMemoryRaisesOutOfBounds : Obligations.FetchBeyondMemoryRaisesOutOfBounds := by
  intro s hhalt hpc
  refine ⟨_, Step.step_of_fetch_exceeds hhalt hpc, ⟨rfl, rfl, offendingAddress_toNat s.pc, rfl⟩, ?_⟩
  rw [Output.stepOutput_of_fetch_exceeds hhalt hpc]
  exact ⟨rfl, rfl⟩

/-- Settles O6: the bytes at `pc` and `pc + 1` decode as the fetched word does. -/
theorem stepRunsTheDecodedInstruction : Obligations.StepRunsTheDecodedInstruction := by
  intro s i hhalt hpc hbytes
  exact Step.step_of_instr hhalt hpc (Encoding.decode_of_decodeBytes hbytes)

/-- Settles O7: `pc` takes part as a number, so its parity does not matter. -/
theorem fetchIsBigEndianAtAnyAddress : Obligations.FetchIsBigEndianAtAnyAddress :=
  fun s hpc => ⟨s.fetchWord, State.fetch_of_le s hpc, wordOfBytes_toNat _ _⟩

/-- Settles O50: Fx0A is the only instruction that reports a key wait, when it finds no key, and then it changes nothing. -/
theorem keyWaitOutputIsTheKeyWaitCondition : Obligations.KeyWaitOutputIsTheKeyWaitCondition :=
  fun _ => ⟨⟨Output.keyWait_of_stepOutput, fun h => (Output.stepOutput_of_keyWait h).1⟩,
    fun h => (Output.stepOutput_of_keyWait h).2⟩

/-- Settles O51: only a step that runs an instruction can report a change of the display (`displayChanged_of_instr`). -/
theorem displayChangedExactlyWhenADrawCompletes : Obligations.DisplayChangedExactlyWhenADrawCompletes := by
  intro s t h
  obtain ⟨hhalt, -⟩ | ⟨hhalt, hpc, -⟩ | ⟨hhalt, hpc, ⟨iw, hdecode⟩, -⟩ | ⟨hhalt, hpc, i, hdecode, hexec⟩ := Step.step_cases h
  · rw [Output.stepOutput_of_halt hhalt]
    simp [StepOutput.silent, hhalt]
  · rw [Output.stepOutput_of_fetch_exceeds hhalt hpc]
    simp [StepOutput.silent, Nat.not_le.2 hpc]
  · rw [Output.stepOutput_of_unknownOpcode hhalt hpc hdecode]
    simp [StepOutput.silent, hdecode]
  · rw [Output.displayChanged_of_instr hhalt hpc hdecode hexec]
    simp [hhalt, hpc, hdecode]

/-- Settles O52: a step that halts reports its fault alone, any other step no fault, and an unknown word is reported alone. -/
theorem oneStepReportsAtMostOneEvent : Obligations.OneStepReportsAtMostOneEvent := by
  intro s
  obtain ⟨t, hstep⟩ := Effect.step_total s
  cases hhalt : s.halt with
  | true =>
    rw [Output.stepOutput_of_halt hhalt]
    exact ⟨.inl rfl, fun _ => ⟨rfl, rfl⟩⟩
  | false =>
    cases hhalted : t.halt with
    | true =>
      obtain ⟨-, -, hout⟩ := fatalFaultsArePrecise s t hhalt hstep hhalted
      rw [hout]
      exact ⟨.inr rfl, fun _ => ⟨rfl, rfl⟩⟩
    | false =>
      have hnone := Output.stepOutput_of_not_halts hstep hhalted
      refine ⟨.inl hnone, fun hreports => Output.stepOutput_of_reports_unknown ?_⟩
      exact hreports.resolve_left fun hfault => hfault hnone

/-- Settles O60: the target of the jump is `pc` itself, which has 12 bits where a fetch can use it. -/
theorem selfJumpIsAFixedPoint : Obligations.SelfJumpIsAFixedPoint := by
  rintro s ⟨hhalt, hpc, hdecode⟩
  rw [Step.step_of_instr hhalt hpc hdecode, Control.exec_jp, Output.address_setWidth_of_le hpc]
  rfl

end Sys2Proof.Proofs
end

section
/-! SUPPORT. Which instruction writes which piece of state (00_scope.md R14, 10_state.md R36), and the keypad, which none
writes (60_exceptions.md R237). -/

open Sys2Proof.Machine Sys2Proof.Claims

namespace Sys2Proof.Proofs.Writers

variable {s t : State} {i : Instr}

theorem canFault_of_raises {f : Fault} (h : Effect.Raises s i f) :
    i = .ret ∨ (∃ nnn, i = .call nnn) ∨ accessCount i ≠ 0 := by
  cases h with
  | outOfBounds hcount => exact .inr (.inr hcount)
  | stackOverflow nnn => exact .inr (.inl ⟨nnn, rfl⟩)
  | stackUnderflow => exact .inl rfl

theorem namesVfAsDestination_of_register (h : registerDestination i = some 15) : namesVfAsDestination i := by
  cases i with
  | ldVxK | ldRegs => cases h
  | _ => exact h

/-- A register instruction that counts a draw is Cxnn. -/
theorem isRnd_of_draws {x : RegIdx} {k : Nat} (hdraws : (∀ nn, i ≠ .rnd x nn) → k = s.randomDraws)
    (hne : k ≠ s.randomDraws) : ∃ x nn, i = .rnd x nn := by
  by_contra hno
  exact hne (hdraws fun nn hi => hno ⟨x, nn, hi⟩)

/-- Only Fx18 writes ST (`exec_timer_cases`). -/
theorem exec_st (h : exec i s = .next t) (hst : ∀ x, i ≠ .ldStVx x) : t.st = s.st := by
  obtain ⟨-, hkept⟩ | ⟨x, -, -, hkept⟩ | ⟨x, hi, -⟩ := Timers.exec_timer_cases h
  · exact hkept
  · exact hkept
  · exact absurd hi (hst x)

/-- Only Cxnn counts a draw. -/
theorem exec_randomDraws (h : exec i s = .next t) (hrnd : ∀ x nn, i ≠ .rnd x nn) : t.randomDraws = s.randomDraws := by
  obtain ⟨f, -, rfl⟩ | hcompletes := Effect.exec_cases h
  · exact takeFault_randomDraws s f
  · cases hcompletes with
    | register _ _ hdraws => exact hdraws fun nn => hrnd _ nn
    | _ => simp

theorem exec_keys (h : exec i s = .next t) : t.keys = s.keys := by
  obtain ⟨f, -, rfl⟩ | hcompletes := Effect.exec_cases h
  · exact takeFault_keys s f
  · cases hcompletes <;> simp

theorem step_keys (h : step s = .next t) : t.keys = s.keys := by
  obtain ⟨-, rfl⟩ | ⟨-, -, rfl⟩ | ⟨-, -, -, rfl⟩ | ⟨-, -, i, -, hexec⟩ := Step.step_cases h
  · rfl
  · exact takeFault_keys s _
  · exact State.advance_keys s
  · exact exec_keys hexec

/-! ### The operation and the read port of the keypad (60_exceptions.md R237) -/

theorem setKey_of_lt (k : Fin 16) (p : Bool) : setKey k.val p s = .next { s with keys := s.keys.set k.val p } :=
  dif_pos k.isLt

theorem setKey_of_ge {k : Nat} (hk : 16 ≤ k) (p : Bool) : setKey k p s = .refused .keyIndexOutsideDomain :=
  dif_neg (Nat.not_lt.2 hk)

theorem key_set (k j : Fin 16) (p : Bool) :
    State.key { s with keys := s.keys.set k.val p } j = if j = k then p else s.key j := by
  simp only [State.key, Fin.getElem_fin, Vector.getElem_set, Fin.ext_iff, eq_comm (a := j.val)]

theorem getElem?_getKeys (s : State) (k : Fin 16) : (getKeys s)[k.val]? = some (s.key k) := by
  simp [getKeys, State.key]

end Sys2Proof.Proofs.Writers

namespace Sys2Proof.Proofs

/-- Settles O56: a fault writes the fault status only, and each kind of completion writes what its constructor says. -/
theorem eachPieceOfStateButPcHasItsWriters : Obligations.EachPieceOfStateButPcHasItsWriters := by
  intro i s t h
  obtain ⟨f, hraises, rfl⟩ | hcompletes := Effect.exec_cases h
  · have hwriter := Writers.canFault_of_raises hraises
    simp [hwriter]
  · cases hcompletes with
    | register hdest hothers hdraws =>
      have hrnd := Writers.isRnd_of_draws hdraws
      simpa [hdest] using hrnd
    | index w hi => simp [hi]
    | store hi => simp [hi]
    | _ => simp [writesFlag]

/-- Settles O57: the instructions that write registers are the register instructions, Fx0A, Fx65 and Dxyn, and each leaves the
registers alone that it neither names as destination nor writes as flag. -/
theorem vfChangesOnlyAsFlagOrDestination : Obligations.VfChangesOnlyAsFlagOrDestination := by
  intro i s t h hne
  obtain ⟨f, -, rfl⟩ | hcompletes := Effect.exec_cases h
  · exact absurd (takeFault_reg s 15 f) hne
  · cases hcompletes with
    | @register _ x _ _ hdest hothers =>
      by_cases hx : x = 15
      · exact .inr (Writers.namesVfAsDestination_of_register (hx ▸ hdest))
      · by_contra hno
        obtain ⟨hflag, -⟩ := not_or.1 hno
        exact hne (hothers 15 (Ne.symm hx) fun hwrites => absurd hwrites hflag)
    | keyRead x b =>
      by_cases hx : x = 15
      · exact .inr hx
      · exact absurd (State.reg_setReg_other s (Ne.symm hx) b) hne
    | loadRegs x v _ habove =>
      by_cases hx : x = 15
      · exact .inr hx
      · exact absurd (habove 15 (Fin.lt_last_iff_ne_last.2 hx)) hne
    | draw => exact .inl rfl
    | _ => exact absurd rfl hne

/-- Settles O3: `set_key` is a write to the vector of keys, and no instruction writes it (`exec_keys`). -/
theorem setKeyWritesOneKeyAndStepsWriteNone : Obligations.SetKeyWritesOneKeyAndStepsWriteNone :=
  ⟨fun _ k p => ⟨_, Writers.setKey_of_lt k p, fun j => Writers.key_set k j p, rfl⟩, fun _ _ p hk => Writers.setKey_of_ge hk p,
    fun s => ⟨s.keys.length_toList, Writers.getElem?_getKeys s⟩, fun _ _ => Writers.step_keys⟩

end Sys2Proof.Proofs
end

section
/-! SUPPORT. The invariant of the machine (10_state.md R27, R34; log 25): an instruction that completes keeps it, and so does a
fault; then every step, every transaction and every run. -/

open Sys2Proof.Machine Sys2Proof.Claims

namespace Sys2Proof.Proofs.Invariant

variable {s t : State} {i : Instr}

/-! ### An instruction that completes -/

theorem wf_of_completes (h : Effect.Completes s i t) (hs : s.Inv) : Memory.wf t.font t.memory = true := by
  cases h with
  | store _ hfits hlength =>
    refine Memory.wf_writeBytes ?_ hs.memory
    obtain hnone | hsum := hfits
    · exact .inl (List.eq_nil_of_length_eq_zero (hlength.trans hnone))
    · exact .inr (hlength ▸ hsum)
  | _ => exact hs.memory

/-- The word after the last one a fetch can use, and the one after that. -/
theorem next_pc_le {w : Word} (h : w.toNat ≤ 0xFFE) : (w + 2#16).toNat ≤ 0x1000 ∧ (w + 4#16).toNat ≤ 0x1002 := by
  rw [BitVec.toNat_add, BitVec.toNat_add, BitVec.toNat_ofNat, BitVec.toNat_ofNat]
  omega

theorem pc_le_of_completes (h : Effect.Completes s i t) (hs : s.Inv) (hpc : s.pc.toNat ≤ 0xFFE) : t.pc.toNat ≤ 0x10FE := by
  obtain ⟨hnext, hskip⟩ := next_pc_le hpc
  cases h with
  | ret hsp => exact Nat.le_trans (hs.stack ⟨s.sp.val - 1, by omega⟩) (by decide)
  | call nnn => exact Nat.le_trans (Effect.jp_target_le nnn) (by decide)
  | control _ hw =>
    obtain hw | rfl | rfl := hw
    · exact hw
    · exact Nat.le_trans hnext (by decide)
    · exact Nat.le_trans hskip (by decide)
  | keyWait => exact hs.pc
  | _ => exact Nat.le_trans hnext (by decide)

theorem stack_le_of_completes (h : Effect.Completes s i t) (hs : s.Inv) (hpc : s.pc.toNat ≤ 0xFFE) (k : Fin 16) :
    t.stack[k].toNat ≤ 0x1000 := by
  cases h with
  | call nnn hsp =>
    rw [State.jump_stack, Fin.getElem_fin, Vector.getElem_set]
    split
    · exact (next_pc_le hpc).1
    · exact hs.stack k
  | _ => exact hs.stack k

theorem faultStatusOk_of_noFault (h : NoFault s t) (hs : s.FaultStatusOk) : t.FaultStatusOk := by
  obtain ⟨hhalt, hkind, haddr⟩ := h
  rw [State.FaultStatusOk, hhalt, hkind, haddr]
  exact hs

theorem inv_of_completes (h : Effect.Completes s i t) (hs : s.Inv) (hpc : s.pc.toNat ≤ 0xFFE) : t.Inv where
  memory := wf_of_completes h hs
  pc := pc_le_of_completes h hs hpc
  stack := stack_le_of_completes h hs hpc
  faultStatus := faultStatusOk_of_noFault h.noFault hs.faultStatus

/-! ### A fault -/

/-- The address a step records for OutOfBounds lies above 0xFFF (60_exceptions.md R229). -/
theorem address_ge_of_stepRaises {f : Fault} (h : Output.StepRaises s f) (hkind : f.kind = .outOfBounds) :
    0x1000 ≤ f.address.toNat := by
  rw [(Output.accessExceeds_of_stepRaises h hkind).2]
  exact Nat.le_max_right _ _

theorem faultStatusOk_takeFault {f : Fault} (h : f.kind = .outOfBounds → 0x1000 ≤ f.address.toNat) :
    (takeFault f s).FaultStatusOk := by
  refine ⟨iff_of_true rfl (Output.kind_ne_none f), h, fun hkind => ?_⟩
  cases f with
  | outOfBounds => exact absurd rfl hkind
  | stackOverflow | stackUnderflow => rfl

theorem inv_takeFault {f : Fault} (h : Output.StepRaises s f) (hs : s.Inv) : (takeFault f s).Inv where
  memory := hs.memory
  pc := hs.pc
  stack := hs.stack
  faultStatus := faultStatusOk_takeFault (address_ge_of_stepRaises h)

/-! ### Steps and transactions -/

theorem inv_advance (hs : s.Inv) (hpc : s.pc.toNat ≤ 0xFFE) : s.advance.Inv where
  memory := hs.memory
  pc := Nat.le_trans (next_pc_le hpc).1 (by decide)
  stack := hs.stack
  faultStatus := hs.faultStatus

theorem step_inv (hs : s.Inv) (h : step s = .next t) : t.Inv := by
  obtain ⟨-, rfl⟩ | ⟨-, hpc, rfl⟩ | ⟨-, hpc, -, rfl⟩ | ⟨-, hpc, i, hdecode, hexec⟩ := Step.step_cases h
  · exact hs
  · exact inv_takeFault (.fetch hpc) hs
  · exact inv_advance hs hpc
  · obtain ⟨f, hraises, rfl⟩ | hcompletes := Effect.exec_cases hexec
    · exact inv_takeFault (.instr hpc hdecode hraises) hs
    · exact inv_of_completes hcompletes hs hpc

/-- `reset` establishes the invariant, whatever the state before. -/
theorem resetTransaction_inv (s : State) : (resetTransaction s).Inv where
  memory := rfl
  pc := show (0x200#16).toNat ≤ 0x10FE by decide
  stack k := by simp [resetTransaction, State.reset]
  faultStatus := by simp [State.FaultStatusOk, resetTransaction, State.reset]

theorem loadTransaction_inv {bytes : List Byte} {offset : Nat} (hs : s.Inv)
    (h : loadTransaction bytes offset s = .next t) : t.Inv := by
  obtain ⟨hfits, rfl⟩ | ⟨-, rfl⟩ := Transactions.loadTransaction_cases h
  · exact ⟨Memory.wf_writeBytes (.inr (Nat.le_trans hfits (by decide))) hs.memory, hs.pc, hs.stack, hs.faultStatus⟩
  · exact hs

theorem applyTransaction_inv {r : Transaction} (hs : s.Inv) (h : applyTransaction r s = .next t) : t.Inv := by
  cases r with
  | reset =>
    cases h
    exact resetTransaction_inv s
  | load bytes offset => exact loadTransaction_inv hs h
  | step => exact step_inv hs h
  | tickTimers =>
    cases h
    exact ⟨hs.memory, hs.pc, hs.stack, hs.faultStatus⟩
  | setKey k p =>
    obtain ⟨-, rfl⟩ := Transactions.setKey_cases h
    exact ⟨hs.memory, hs.pc, hs.stack, hs.faultStatus⟩

/-- A run that answers a next state begins with a transaction that does. -/
theorem runTransactions_cons {r : Transaction} {rs : List Transaction} (h : runTransactions (r :: rs) s = .next t) :
    ∃ u, applyTransaction r s = .next u ∧ runTransactions rs u = .next t := by
  unfold runTransactions at h
  split at h
  · next u hu => exact ⟨u, hu, h⟩
  · cases h
  · cases h

theorem runTransactions_inv {rs : List Transaction} (hs : s.Inv) (h : runTransactions rs s = .next t) : t.Inv := by
  induction rs generalizing s with
  | nil =>
    cases h
    exact hs
  | cons r rs ih =>
    obtain ⟨u, hu, hrest⟩ := runTransactions_cons h
    exact ih (applyTransaction_inv hs hu) hrest

end Sys2Proof.Proofs.Invariant

namespace Sys2Proof.Proofs

/-- Settles O54: the instruction of a step completes and keeps each part of the invariant, or raises a fault, which writes the
fault status coherently. -/
theorem stepKeepsTheInvariant : Obligations.StepKeepsTheInvariant := fun _ _ => Invariant.step_inv

/-- Settles O55: by induction on the list of transactions, each of which keeps the invariant or establishes it. -/
theorem transactionRunsKeepTheInvariant : Obligations.TransactionRunsKeepTheInvariant := fun _ _ _ => Invariant.runTransactions_inv

/-- Settles O53: the reset state is the state that `reset` makes of it. -/
theorem resetMeetsTheInvariant : Obligations.ResetMeetsTheInvariant := Invariant.resetTransaction_inv State.reset

end Sys2Proof.Proofs
end

section
/-! SUPPORT. Calls, returns and skips on registers (40_control_flow.md R120, R122, R125, R126): the stack entries of a push, the
meanings of 5xy0 and 9xy0, and the frame of a jump and of a skip. -/

open Sys2Proof.Machine Sys2Proof.Claims

namespace Sys2Proof.Proofs.Calls

variable (s : State)

/-! ### The meanings of the skips (R125, R126) -/

theorem exec_seReg (x y : RegIdx) : exec (.seReg x y) s = .next (s.skipIf (s.reg x == s.reg y)) := rfl

theorem exec_sneReg (x y : RegIdx) : exec (.sneReg x y) s = .next (s.skipIf (s.reg x != s.reg y)) := rfl

/-! ### The stack entries of a push -/

theorem getElem_push (w : Word) (hsp : s.sp.val < 16) (k : Fin 16) :
    (s.stack.set s.sp.val w)[k] = if k.val = s.sp.val then w else s.stack[k] := by
  simp only [Fin.getElem_fin, Vector.getElem_set, eq_comm (a := k.val)]

/-! ### The frame of a jump and of a skip -/

theorem frame_jump (w : Word) : { s.jump w with pc := s.pc } = s := rfl

theorem frame_skipIf (c : Bool) : { s.skipIf c with pc := s.pc } = s := rfl

end Sys2Proof.Proofs.Calls

namespace Sys2Proof.Proofs

/-- Settles O13: the meanings at the limits, and a stack fault of a step comes from its instruction (`StepRaises`). -/
theorem stackFaultsAreRaisedAtTheLimitsOnly : Obligations.StackFaultsAreRaisedAtTheLimitsOnly := by
  refine ⟨fun s nnn => Calls.exec_call_of_full s nnn, Calls.exec_ret_of_empty, fun s t hhalt h hhalted => ?_⟩
  obtain ⟨f, hraises, rfl⟩ := Output.raises_of_halts hhalt h hhalted
  exact ⟨Output.stackOverflow_of_stepRaises hraises, Output.stackUnderflow_of_stepRaises hraises⟩

/-- Settles O23: a push below the limit writes the entry at SP and SP, and at the limit there is none. -/
theorem callPushesTheReturnAddress : Obligations.CallPushesTheReturnAddress := by
  refine ⟨Control.selects_row (.call 0#12), fun s nnn hsp => ?_, fun s nnn => Calls.exec_call_of_full s nnn⟩
  exact ⟨_, Calls.exec_call_of_lt s nnn hsp, Control.address_toNat nnn, rfl, Calls.getElem_push s _ hsp, rfl⟩

/-- Settles O24: a pop answers the entry below SP and writes SP only, and from an empty stack there is none. -/
theorem returnPopsIntoPc : Obligations.ReturnPopsIntoPc := by
  refine ⟨Control.selects_row .ret, fun s k hsp => ?_, Calls.exec_ret_of_empty⟩
  have hk : s.sp.val - 1 = k.val := by omega
  refine ⟨_, Calls.exec_ret_of_pos s (by omega), ?_, hk, rfl⟩
  simp only [State.jump_pc, hk, Fin.getElem_fin]

/-- Settles O26: both instructions are a `skipIf`, which writes `pc` only, on a comparison of bytes that is one of numbers. -/
theorem registerSkipsCompareTwoRegisters : Obligations.RegisterSkipsCompareTwoRegisters := by
  refine ⟨Control.selects_row (.seReg 0 0), Control.selects_row (.sneReg 0 0), fun s x y => ⟨?seReg, ?sneReg⟩⟩
  case seReg =>
    exact ⟨_, Calls.exec_seReg s x y, Control.skipIf_pc_of_iff s (Control.beq_iff_toNat_eq _ _), Control.noFlag_skipIf s _,
      Control.noFault_skipIf s _⟩
  case sneReg =>
    exact ⟨_, Calls.exec_sneReg s x y, Control.skipIf_pc_of_iff s (Control.bne_iff_toNat_ne _ _), Control.noFlag_skipIf s _,
      Control.noFault_skipIf s _⟩

/-- Settles O27: the call leaves the return address in the entry below its SP, where the return reads it, and keeps the entries
below that. -/
theorem returnUndoesCall : Obligations.ReturnUndoesCall := by
  intro s t u nnn hsp hcall hstack husp
  rw [Calls.exec_call_of_lt s nnn hsp] at hcall
  cases hcall
  rw [State.jump_stack] at hstack
  have hval : u.sp.val = s.sp.val + 1 := congrArg Fin.val husp
  refine ⟨_, Calls.exec_ret_of_pos u (by omega), ?pc, ?sp, fun k hk => ?entries⟩
  case pc => simp only [State.jump_pc, hstack, hval, Nat.add_sub_cancel, Vector.getElem_set_self]
  case sp => exact Fin.ext (show u.sp.val - 1 = s.sp.val by omega)
  case entries => rw [State.jump_stack, hstack, Calls.getElem_push s _ hsp, if_neg (by omega)]

/-- Settles O22: the jumps and skips write `pc` only, each other instruction one more piece before the default advance. -/
theorem jumpsSkipsAndSingleWritesChangeNothingElse : Obligations.JumpsSkipsAndSingleWritesChangeNothingElse := by
  intro s x y nn nnn
  refine ⟨fun i hi => ?jumpsAndSkips, ⟨_, Index.exec_ldI s nnn, rfl⟩, ⟨_, Timers.exec_ldDtVx s x, rfl⟩,
    ⟨_, Timers.exec_ldStVx s x, rfl⟩, ⟨_, rfl, rfl⟩⟩
  simp only [List.mem_cons, List.not_mem_nil, or_false] at hi
  obtain rfl | rfl | rfl | rfl | rfl | rfl | rfl | rfl := hi
  · exact ⟨_, Control.exec_jp s nnn, Calls.frame_jump s _⟩
  · exact ⟨_, Control.exec_jpV0 s nnn, Calls.frame_jump s _⟩
  · exact ⟨_, Control.exec_seImm s x nn, Calls.frame_skipIf s _⟩
  · exact ⟨_, Control.exec_sneImm s x nn, Calls.frame_skipIf s _⟩
  · exact ⟨_, Calls.exec_seReg s x y, Calls.frame_skipIf s _⟩
  · exact ⟨_, Calls.exec_sneReg s x y, Calls.frame_skipIf s _⟩
  · exact ⟨_, rfl, Calls.frame_skipIf s _⟩
  · exact ⟨_, rfl, Calls.frame_skipIf s _⟩

end Sys2Proof.Proofs
end

section
/-! SUPPORT. Two machines that differ in ST or in the count of random draws only (10_state.md R31, R40; 41_alu.md R166): a step of
one is a step of the other, because no meaning but those of Fx18 and of Cxnn names either. -/

open Sys2Proof.Machine Sys2Proof.Claims

namespace Sys2Proof.Proofs.Noninterference

variable {s t : State} {i : Instr}

/-- The state with other values in the two pieces that no meaning but those of Fx18 and Cxnn names. -/
def withHidden (b : Byte) (k : Nat) (s : State) : State := { s with st := b, randomDraws := k }

variable (b : Byte) (k : Nat)

/-! ### The instructions other than Fx18 and Cxnn -/

theorem withAccess_withHidden {base : Word} {n : Nat} {e : State} (h : withAccess base n s e = .next t) :
    withAccess base n (withHidden b k s) (withHidden b k e) = .next (withHidden b k t) := by
  obtain ⟨hfits, rfl⟩ | ⟨hexceeds, rfl⟩ := withAccess_cases s h
  · exact withAccess_fits _ hfits _
  · exact withAccess_exceeds _ hexceeds _

theorem execRet_withHidden (h : execRet s = .next t) : exec .ret (withHidden b k s) = .next (withHidden b k t) := by
  obtain ⟨hsp, rfl⟩ | ⟨hsp, rfl⟩ := Step.execRet_cases h
  · exact Calls.exec_ret_of_empty (withHidden b k s) hsp
  · exact Calls.exec_ret_of_pos (withHidden b k s) hsp

theorem execCall_withHidden {nnn : BitVec 12} (h : execCall nnn s = .next t) :
    exec (.call nnn) (withHidden b k s) = .next (withHidden b k t) := by
  obtain ⟨hsp, rfl⟩ | ⟨hsp, rfl⟩ := Step.execCall_cases h
  · exact Calls.exec_call_of_full (withHidden b k s) nnn hsp
  · exact Calls.exec_call_of_lt (withHidden b k s) nnn hsp

theorem execLdVxK_withHidden {x : RegIdx} (h : execLdVxK x s = .next t) :
    exec (.ldVxK x) (withHidden b k s) = .next (withHidden b k t) := by
  obtain ⟨hkey, rfl⟩ | ⟨j, hkey, rfl⟩ := Step.execLdVxK_cases h
  · exact Keypad.exec_ldVxK_of_no_key x hkey
  · exact Keypad.exec_ldVxK_of_key x hkey

theorem exec_withHidden (h : exec i s = .next t) (hst : ∀ x, i ≠ .ldStVx x) (hrnd : ∀ x nn, i ≠ .rnd x nn) :
    exec i (withHidden b k s) = .next (withHidden b k t) := by
  cases i with
  | ldStVx x => exact absurd rfl (hst x)
  | rnd x nn => exact absurd rfl (hrnd x nn)
  | drw | ldB | stRegs | ldRegs => exact withAccess_withHidden b k h
  | ret => exact execRet_withHidden b k h
  | call => exact execCall_withHidden b k h
  | ldVxK => exact execLdVxK_withHidden b k h
  | cls | jp | seImm | sneImm | seReg | ldImm | addImm | ldReg | orReg | andReg | xorReg | addReg | sub | shr | subn | shl
  | sneReg | ldI | jpV0 | skp | sknp | ldVxDt | ldDtVx | addI | ldF =>
    cases h
    rfl

/-! ### Every instruction -/

/-- With another ST an instruction answers the same state up to ST. -/
theorem exec_withSt (h : exec i s = .next t) : ∃ c, exec i { s with st := b } = .next { t with st := c } := by
  by_cases hst : ∃ x, i = .ldStVx x
  · obtain ⟨x, rfl⟩ := hst
    cases h
    exact ⟨s.reg x, rfl⟩
  by_cases hrnd : ∃ x nn, i = .rnd x nn
  · obtain ⟨x, nn, rfl⟩ := hrnd
    cases h
    exact ⟨b, rfl⟩
  · simp only [not_exists] at hst hrnd
    refine ⟨b, (exec_withHidden b s.randomDraws h hst hrnd).trans ?_⟩
    rw [withHidden, ← Writers.exec_randomDraws h hrnd]

/-- With another count of draws every instruction but Cxnn answers the same state with that count. -/
theorem exec_withDraws (h : exec i s = .next t) (hrnd : ∀ x nn, i ≠ .rnd x nn) :
    exec i { s with randomDraws := k } = .next { t with randomDraws := k } := by
  by_cases hst : ∃ x, i = .ldStVx x
  · obtain ⟨x, rfl⟩ := hst
    cases h
    rfl
  · simp only [not_exists] at hst
    refine (exec_withHidden s.st k h hst hrnd).trans ?_
    rw [withHidden, ← Writers.exec_st h hst]

/-- The outputs of an instruction name the state it answers by its fault status only, and the state before it by its keys. -/
theorem instrOutput_withSt (h : exec i s = .next t) : instrOutput i { s with st := b } = instrOutput i s := by
  obtain ⟨c, hexec⟩ := exec_withSt b h
  have hevent : faultEvent (exec i { s with st := b }) = faultEvent (exec i s) := by
    rw [hexec, h]
    rfl
  simp only [instrOutput, hevent]
  rfl

/-- ST takes part neither in the checks of a step nor in the fetch. -/
theorem step_withSt (h : step s = .next t) : ∃ c, step { s with st := b } = .next { t with st := c } := by
  obtain ⟨hhalt, rfl⟩ | ⟨hhalt, hpc, rfl⟩ | ⟨hhalt, hpc, ⟨iw, hdecode⟩, rfl⟩ | ⟨hhalt, hpc, i, hdecode, hexec⟩ :=
    Step.step_cases h
  · exact ⟨b, Step.step_of_halt hhalt⟩
  · exact ⟨b, Step.step_of_fetch_exceeds hhalt hpc⟩
  · exact ⟨b, Step.step_of_unknownOpcode hhalt hpc hdecode⟩
  · obtain ⟨c, hexec'⟩ := exec_withSt b hexec
    exact ⟨c, (Step.step_of_instr (s := { s with st := b }) hhalt hpc hdecode).trans hexec'⟩

theorem stepOutput_withSt (h : step s = .next t) : stepOutput { s with st := b } = stepOutput s := by
  obtain ⟨hhalt, -⟩ | ⟨hhalt, hpc, -⟩ | ⟨hhalt, hpc, ⟨iw, hdecode⟩, -⟩ | ⟨hhalt, hpc, i, hdecode, hexec⟩ := Step.step_cases h
  · rw [Output.stepOutput_of_halt hhalt]
    exact Output.stepOutput_of_halt hhalt
  · rw [Output.stepOutput_of_fetch_exceeds hhalt hpc]
    exact Output.stepOutput_of_fetch_exceeds hhalt hpc
  · rw [Output.stepOutput_of_unknownOpcode hhalt hpc hdecode]
    exact Output.stepOutput_of_unknownOpcode hhalt hpc hdecode
  · rw [Output.stepOutput_of_instr hhalt hpc hdecode, ← instrOutput_withSt b hexec]
    exact Output.stepOutput_of_instr hhalt hpc hdecode

end Sys2Proof.Proofs.Noninterference

namespace Sys2Proof.Proofs

/-- Settles O58: ST takes part in no check of a step (`step_withSt`) and in no meaning but as what Fx18 writes. -/
theorem soundTimerIsNotObservable : Obligations.SoundTimerIsNotObservable := fun _ _ b h =>
  ⟨Noninterference.step_withSt b h, Noninterference.stepOutput_withSt b h⟩

/-- Settles O59: the count of draws takes part in no check of a step and in no meaning but that of Cxnn (`exec_withDraws`). -/
theorem randomSourceReachesRandomMaskOnly : Obligations.RandomSourceReachesRandomMaskOnly := by
  intro s t k h hrnd
  obtain ⟨hhalt, rfl⟩ | ⟨hhalt, hpc, rfl⟩ | ⟨hhalt, hpc, ⟨iw, hdecode⟩, rfl⟩ | ⟨hhalt, hpc, i, hdecode, hexec⟩ :=
    Step.step_cases h
  · exact Step.step_of_halt hhalt
  · exact Step.step_of_fetch_exceeds hhalt hpc
  · exact Step.step_of_unknownOpcode hhalt hpc hdecode
  · have hno : ∀ x nn, i ≠ .rnd x nn := fun x nn hi => hrnd x nn (hi ▸ hdecode)
    exact (Step.step_of_instr (s := { s with randomDraws := k }) hhalt hpc hdecode).trans
      (Noninterference.exec_withDraws k hexec hno)

end Sys2Proof.Proofs
end

section
/-! SUPPORT. The register instructions as a group, the flag writers with VF as destination, and Cxnn (41_alu.md R151, R165,
R166; 10_state.md R36). -/

open Sys2Proof.Machine Sys2Proof.Claims

namespace Sys2Proof.Proofs.Alu

variable (s : State) (x : RegIdx) (a b nn : Byte)

theorem carryFlag_eq_ite : carryFlag a b = if a.toNat + b.toNat > 255 then 1#8 else 0#8 := by
  by_cases h : a.toNat + b.toNat > 255 <;> simp [carryFlag, flagByte, h]

theorem shr_one_toNat : (a >>> 1).toNat = a.toNat / 2 := by
  rw [BitVec.toNat_ushiftRight, Nat.shiftRight_eq_div_pow]

theorem shl_one_toNat : (a <<< 1).toNat = a.toNat * 2 % 256 := by
  rw [BitVec.toNat_shiftLeft, Nat.shiftLeft_eq]

theorem exec_rnd : exec (.rnd x nn) s = .next (s.sampled.setReg x (s.randomByte &&& nn)).advance := rfl

end Sys2Proof.Proofs.Alu

namespace Sys2Proof.Proofs

/-- Settles O34: the register instructions share the form of their answer (`exec_register`). -/
theorem registerInstructionsChangeOnlyTheirDestination : Obligations.RegisterInstructionsChangeOnlyTheirDestination := by
  intro i x s hdest
  obtain ⟨v, k, hexec, hothers, hdraws⟩ := Effect.exec_register (s := s) hdest
  exact ⟨_, hexec, hothers, rfl, rfl, hdraws⟩

/-- Settles O33: with VF as destination the second of the two writes stays, which is the flag of 8xy4, 8xy5 and 8xy7 and the
result of the shifts. -/
theorem flagWritersWithVfAsDestination : Obligations.FlagWritersWithVfAsDestination := by
  refine fun s y => ⟨⟨_, Alu.exec_addReg s 15 y, ?add⟩, ⟨_, Alu.exec_sub s 15 y, ?sub⟩, ⟨_, Alu.exec_subn s 15 y, ?subn⟩,
    ⟨_, Alu.exec_shr s 15 y, ?shr⟩, ⟨_, Alu.exec_shl s 15 y, ?shl⟩⟩
  case add => exact (Alu.reg_flag s 15 _ _).trans (Alu.carryFlag_eq_ite _ _)
  case sub => exact (Alu.reg_flag s 15 _ _).trans (Alu.notBorrowFlag_eq_ite _ _)
  case subn => exact (Alu.reg_flag s 15 _ _).trans (Alu.notBorrowFlag_eq_ite _ _)
  case shr => rw [Alu.reg_setReg_advance, Alu.shr_one_toNat]
  case shl => rw [Alu.reg_setReg_advance, Alu.shl_one_toNat]

/-- Settles O35: the destination receives the masked sample of the draw that is counted. -/
theorem randomMaskStoresTheSampleMasked : Obligations.RandomMaskStoresTheSampleMasked := by
  refine ⟨Control.selects_row (.rnd 0 0#8), fun s x nn => ⟨_, Alu.exec_rnd s x nn, fun k _ => ?bits, fun r hr => ?others, rfl⟩⟩
  case bits =>
    rw [Alu.reg_setReg_advance, BitVec.getLsbD_and]
    rfl
  case others => rw [State.reg_advance, State.reg_setReg_other _ hr, State.reg_sampled]

end Sys2Proof.Proofs
end

section
/-! SUPPORT. The index register and memory (42_index_memory.md R171 to R176, 20_memory.md R74): the meaning of each checked access
when it fits and when it does not, and what the bytes read afterwards are. -/

open Sys2Proof.Machine Sys2Proof.Claims

namespace Sys2Proof.Proofs.Index

variable (s : State) (x : RegIdx)

/-! ### The meanings (R171 to R175) -/

theorem exec_addI : exec (.addI x) s = .next { s with i := s.i + widen (s.reg x) }.advance := rfl

theorem exec_ldF : exec (.ldF x) s = .next { s with i := glyphAddress (s.reg x) }.advance := rfl

variable {s x}

theorem exec_ldB_of_fits (h : s.i.toNat + 2 ≤ 0xFFF) :
    exec (.ldB x) s = .next (s.storeBytes s.base (decimalDigits (s.reg x))).advance :=
  withAccess_fits s (.inr (by omega)) _

theorem exec_stRegs_of_fits (h : s.i.toNat + x.val ≤ 0xFFF) :
    exec (.stRegs x) s = .next (s.storeBytes s.base (s.regsUpTo x)).advance :=
  withAccess_fits s (.inr (by omega)) _

theorem exec_ldRegs_of_fits (h : s.i.toNat + x.val ≤ 0xFFF) :
    exec (.ldRegs x) s = .next (s.setRegsUpTo x (s.loadBytes s.base (x.val + 1))).advance :=
  withAccess_fits s (.inr (by omega)) _

/-- The fault of an access from `base` (60_exceptions.md R226, R229). -/
theorem outOfBoundsFrom_takeFault (base : Word) (s : State) :
    OutOfBoundsFrom base s (takeFault (.outOfBounds (offendingAddress base)) s) :=
  ⟨rfl, rfl, offendingAddress_toNat base, rfl⟩

/-- A checked access that does not fit raises its fault and has no effect. -/
theorem withAccess_outOfBounds {n : Nat} (e : State) (hn : n ≠ 0) (h : 0x1000 < s.i.toNat + n) :
    ∃ t, withAccess s.i n s e = .next t ∧ OutOfBoundsFrom s.i s t :=
  ⟨_, withAccess_exceeds s (not_or.2 ⟨hn, Nat.not_le.2 h⟩) e, outOfBoundsFrom_takeFault s.i s⟩

/-- The frame of registers written, then the default advance. -/
theorem frame_setV_advance (s : State) (v : Vector Byte 16) :
    { State.advance { s with v := v } with v := s.v, pc := s.pc } = s := rfl

/-! ### The numbers (R171 to R173) -/

theorem glyphAddress_toNat (b : Byte) : (glyphAddress b).toNat = 0x050 + 5 * b.toNat := by
  have hb := b.isLt
  rw [glyphAddress, BitVec.toNat_add, BitVec.toNat_mul, Control.widen_toNat, BitVec.toNat_ofNat, BitVec.toNat_ofNat]
  omega

theorem hundreds_toNat (b : Byte) : (b / 100#8).toNat = b.toNat / 100 := BitVec.toNat_udiv

theorem tens_toNat (b : Byte) : ((b / 10#8) % 10#8).toNat = b.toNat / 10 % 10 := by
  rw [BitVec.toNat_umod, BitVec.toNat_udiv]
  rfl

theorem ones_toNat (b : Byte) : (b % 10#8).toNat = b.toNat % 10 := BitVec.toNat_umod

/-! ### The bytes stored and loaded -/

/-- Byte `k` of V0 to Vx, after Fx55. -/
theorem readByte_store_regs (hwf : Memory.wf s.font s.memory = true) (h : s.i.toNat + x.val ≤ 0xFFF) {k : RegIdx}
    (hk : k ≤ x) : (s.storeBytes s.base (s.regsUpTo x)).readByte (s.i.toNat + k.val) = s.reg k := by
  have hlength := State.length_regsUpTo s x
  have hkx : k.val ≤ x.val := hk
  have hfits : s.base + (s.regsUpTo x).length ≤ 0x1000 := by
    rw [hlength]
    exact Nat.succ_le_succ h
  exact (State.readByte_storeBytes_inside s hwf hfits (by omega)).trans (State.getElem_regsUpTo s x k.val (by omega))

theorem length_decimalDigits (b : Byte) : (decimalDigits b).length = 3 := rfl

/-- Digit `k` of `b`, after Fx33. -/
theorem readByte_store_digits (hwf : Memory.wf s.font s.memory = true) (h : s.i.toNat + 2 ≤ 0xFFF) (b : Byte) (k : Fin 3) :
    (s.storeBytes s.base (decimalDigits b)).advance.readByte (s.i.toNat + k.val) = (decimalDigits b)[k] := by
  rw [State.readByte_advance]
  refine State.readByte_storeBytes_inside s hwf ?_ k.isLt
  rw [length_decimalDigits, State.base]
  omega

/-- Register `k` after Fx65. -/
theorem reg_load_regs (k : RegIdx) :
    (s.setRegsUpTo x (s.loadBytes s.base (x.val + 1))).reg k =
      if k ≤ x then s.readByte (s.i.toNat + k.val) else s.reg k := by
  rw [State.reg_setRegsUpTo]
  split
  · next hk =>
    have hkx : k.val < (s.loadBytes s.base (x.val + 1)).length := by
      rw [State.length_loadBytes]
      exact Nat.lt_succ_of_le hk
    rw [List.getD_eq_getElem _ _ hkx, State.getElem_loadBytes]
    rfl
  · rfl

end Sys2Proof.Proofs.Index

namespace Sys2Proof.Proofs

/-- Settles O37: the instruction writes I only, to a sum of 16-bit words. -/
theorem addIndexWrapsAndWritesNoFlag : Obligations.AddIndexWrapsAndWritesNoFlag := by
  refine ⟨Control.selects_row (.addI 0), fun s x => ⟨_, Index.exec_addI s x, ?_, rfl, rfl⟩⟩
  rw [State.advance_i, BitVec.toNat_add, Control.widen_toNat]

/-- Settles O38: the instruction writes I only, to a sum that is below 65536 for every byte (`glyphAddress_toNat`). -/
theorem glyphAddressIsFiveTimesTheRegister : Obligations.GlyphAddressIsFiveTimesTheRegister :=
  ⟨Control.selects_row (.ldF 0), fun s x => ⟨_, Index.exec_ldF s x, Index.glyphAddress_toNat _, rfl, rfl⟩⟩

/-- Settles O39: the three digits are written where they fit, and an access that does not fit has no effect. -/
theorem decimalDigitsAreStoredAtI : Obligations.DecimalDigitsAreStoredAtI := by
  refine ⟨Control.selects_row (.ldB 0), fun s x hwf hfits => ?fits,
    fun s x h => Index.withAccess_outOfBounds _ (by decide) (by omega)⟩
  have hdigit := Index.readByte_store_digits hwf hfits (s.reg x)
  refine ⟨_, Index.exec_ldB_of_fits hfits, ?hundreds, ?tens, ?ones, fun a ha => ?others, rfl, rfl⟩
  case hundreds => exact (congrArg BitVec.toNat (hdigit 0)).trans (Index.hundreds_toNat _)
  case tens => exact (congrArg BitVec.toNat (hdigit 1)).trans (Index.tens_toNat _)
  case ones => exact (congrArg BitVec.toNat (hdigit 2)).trans (Index.ones_toNat _)
  case others => exact State.readByte_storeBytes_other s ha

/-- Settles O40: V0 to Vx are written where they fit (`readByte_store_regs`), and an access that does not fit has no effect. -/
theorem storeRegistersWritesV0ToVxAtI : Obligations.StoreRegistersWritesV0ToVxAtI := by
  refine ⟨Control.selects_row (.stRegs 0), fun s x hwf hfits => ?fits,
    fun s x h => Index.withAccess_outOfBounds _ (Nat.succ_ne_zero _) (Nat.succ_lt_succ h)⟩
  refine ⟨_, Index.exec_stRegs_of_fits hfits, fun k hk => Index.readByte_store_regs hwf hfits hk, fun a ha => ?others, rfl, rfl⟩
  refine State.readByte_storeBytes_other s ?_
  rw [State.length_regsUpTo]
  exact ha

/-- Settles O41: V0 to Vx are read where they lie in memory (`reg_load_regs`), and an access that does not fit has no effect. -/
theorem loadRegistersReadsV0ToVxFromI : Obligations.LoadRegistersReadsV0ToVxFromI := by
  refine ⟨Control.selects_row (.ldRegs 0), fun s x hfits => ?fits,
    fun s x h => Index.withAccess_outOfBounds _ (Nat.succ_ne_zero _) (Nat.succ_lt_succ h)⟩
  refine ⟨_, Index.exec_ldRegs_of_fits hfits, fun k => ?registers, ?pc, Index.frame_setV_advance s _⟩
  case registers => rw [State.reg_advance, Index.reg_load_regs]
  case pc => rw [State.advance_pc, State.setRegsUpTo_pc]

/-- Settles O42: the load reads the bytes that the store wrote, which are the registers before it. -/
theorem loadAfterStoreRestoresTheRegisters : Obligations.LoadAfterStoreRestoresTheRegisters := by
  intro s t u x hwf hfits hstore hmemory hfont hi
  rw [Index.exec_stRegs_of_fits hfits] at hstore
  cases hstore
  refine ⟨_, Index.exec_ldRegs_of_fits (hi ▸ hfits), fun k hk => ?_⟩
  rw [State.reg_advance, Index.reg_load_regs, if_pos hk, hi, State.readByte, hmemory, hfont]
  exact Index.readByte_store_regs hwf hfits hk

/-- Settles O43: `pc` is I when the store has completed, so the two bytes fetched are V0 and V1. -/
theorem storeIsSeenByTheNextFetch : Obligations.StoreIsSeenByTheNextFetch := by
  intro s t x hwf hpc hi hx hfits hstore
  rw [Index.exec_stRegs_of_fits hfits] at hstore
  cases hstore
  have hnext : s.i.toNat = s.pc.toNat + 2 := by
    rw [hi, BitVec.toNat_add, BitVec.toNat_ofNat]
    omega
  have hbyte0 := Index.readByte_store_regs hwf hfits (k := 0) (Fin.zero_le x)
  have hbyte1 := Index.readByte_store_regs hwf hfits (k := 1) hx
  rw [State.fetch_of_le, State.fetchWord, State.advance_pc, State.storeBytes_pc, ← hi]
  · exact congrArg some (congrArg₂ wordOfBytes hbyte0 hbyte1)
  · rw [State.advance_pc, State.storeBytes_pc, ← hi]
    omega

end Sys2Proof.Proofs
end

section
/-! SUPPORT. Drawing (43_display.md R190 to R192): the pixel loop toggles a list of cells without repetition, the cells that the
sprite covers, so it is an exclusive or with the sprite's mask. -/

open Sys2Proof.Machine Sys2Proof.Claims

namespace Sys2Proof.Proofs.Draw

/-! ### Toggling a list of cells -/

/-- Draw the pixels of a list of cells, in order. -/
def pixels (cells : List (Fin 64 × Fin 32)) (d : Drawing) : Drawing := cells.foldl (fun d c => d.pixel c.1 c.2) d

variable {cells : List (Fin 64 × Fin 32)} {vx vy row : Byte} {rows : List Byte}

theorem pixels_cons (c : Fin 64 × Fin 32) (cells : List (Fin 64 × Fin 32)) (d : Drawing) :
    pixels (c :: cells) d = pixels cells (d.pixel c.1 c.2) := rfl

theorem pixels_append (cells cells' : List (Fin 64 × Fin 32)) (d : Drawing) :
    pixels (cells ++ cells') d = pixels cells' (pixels cells d) := List.foldl_append

/-- Cells without repetition are flipped once each. -/
theorem cell_pixels (hnodup : cells.Nodup) (d : Drawing) (x : Fin 64) (y : Fin 32) :
    (pixels cells d).fb.cell x y = (d.fb.cell x y ^^ decide ((x, y) ∈ cells)) := by
  induction cells generalizing d with
  | nil => simp [pixels]
  | cons c cells ih =>
    obtain ⟨hc, hcells⟩ := List.nodup_cons.1 hnodup
    rw [pixels_cons, ih hcells, Drawing.pixel_fb, Framebuffer.cell_toggle]
    by_cases hxy : (x, y) = c
    · subst hxy
      simp [hc]
    · have hne : ¬(x = c.1 ∧ y = c.2) := fun h => hxy (Prod.ext h.1 h.2)
      simp [hne, hxy]

/-- A collision is noted if some cell was set before the first toggle, the cells being without repetition. -/
theorem collision_pixels (hnodup : cells.Nodup) (d : Drawing) :
    (pixels cells d).collision = true ↔ d.collision = true ∨ ∃ c ∈ cells, d.fb.cell c.1 c.2 = true := by
  induction cells generalizing d with
  | nil => simp [pixels]
  | cons c cells ih =>
    obtain ⟨hc, hcells⟩ := List.nodup_cons.1 hnodup
    have hkept : ∀ c' ∈ cells, (d.pixel c.1 c.2).fb.cell c'.1 c'.2 = d.fb.cell c'.1 c'.2 := fun c' hc' => by
      have hne : ¬(c'.1 = c.1 ∧ c'.2 = c.2) := fun h => hc (Prod.ext h.1 h.2 ▸ hc')
      rw [Drawing.pixel_fb, Framebuffer.cell_toggle, decide_eq_false hne, Bool.xor_false]
    have hrest : (∃ c' ∈ cells, (d.pixel c.1 c.2).fb.cell c'.1 c'.2 = true) ↔ ∃ c' ∈ cells, d.fb.cell c'.1 c'.2 = true :=
      exists_congr fun c' => and_congr_right fun hc' => by rw [hkept c' hc']
    rw [pixels_cons, ih hcells, hrest, Drawing.pixel_collision, Bool.or_eq_true, List.exists_mem_cons_iff, or_assoc]

/-! ### The cells a sprite covers -/

/-- The cells of one sprite row, left to right. -/
def rowCells (vx : Byte) (py : Fin 32) (row : Byte) : List (Fin 64 × Fin 32) :=
  ((List.range 8).filter fun c => row.getLsbD (7 - c)).map fun c => (spriteColumn vx c, py)

/-- The cells of the sprite rows from number `r` on. -/
def spriteCells (vx vy : Byte) : Nat → List Byte → List (Fin 64 × Fin 32)
  | _, [] => []
  | r, row :: rows => rowCells vx (spriteRow vy r) row ++ spriteCells vx vy (r + 1) rows

theorem row_eq_pixels (py : Fin 32) (d : Drawing) : d.row vx py row = pixels (rowCells vx py row) d := by
  rw [pixels, rowCells, List.foldl_map, List.foldl_filter]
  rfl

theorem sprite_eq_pixels (r : Nat) (d : Drawing) : Drawing.sprite vx vy r rows d = pixels (spriteCells vx vy r rows) d := by
  induction rows generalizing r d with
  | nil => rfl
  | cons row rows ih => rw [Drawing.sprite_cons, row_eq_pixels, ih, spriteCells, pixels_append]

theorem mem_rowCells {py : Fin 32} {x : Fin 64} {y : Fin 32} :
    (x, y) ∈ rowCells vx py row ↔ ∃ c, c < 8 ∧ row.getLsbD (7 - c) = true ∧ spriteColumn vx c = x ∧ py = y := by
  simp only [rowCells, List.mem_map, List.mem_filter, List.mem_range, Prod.mk.injEq, and_assoc]

theorem mem_spriteCells {r : Nat} {x : Fin 64} {y : Fin 32} :
    (x, y) ∈ spriteCells vx vy r rows ↔ ∃ k c, ∃ hk : k < rows.length, c < 8 ∧ (rows[k]).getLsbD (7 - c) = true ∧
      spriteColumn vx c = x ∧ spriteRow vy (r + k) = y := by
  induction rows generalizing r with
  | nil => simp [spriteCells]
  | cons row rows ih =>
    rw [spriteCells, List.mem_append, mem_rowCells, ih]
    constructor
    · rintro (⟨c, hc⟩ | ⟨k, c, hk, hc8, hbit, hx, hy⟩)
      · exact ⟨0, c, Nat.zero_lt_succ _, hc⟩
      · exact ⟨k + 1, c, Nat.succ_lt_succ hk, hc8, hbit, hx, by rw [← hy, Nat.add_assoc, Nat.add_comm 1]⟩
    · rintro ⟨_ | k, c, hk, hc8, hbit, hx, hy⟩
      · exact .inl ⟨c, hc8, hbit, hx, hy⟩
      · exact .inr ⟨k, c, Nat.lt_of_succ_lt_succ hk, hc8, hbit, hx, by rw [← hy, Nat.add_assoc, Nat.add_comm 1]⟩

/-- The covered cells are those of the statements. -/
theorem mem_spriteCells_iff_covers {x : Fin 64} {y : Fin 32} :
    (x, y) ∈ spriteCells vx vy 0 rows ↔ Covers vx vy rows x y := by
  simp only [mem_spriteCells, Covers, Fin.ext_iff, spriteColumn_val, spriteRow_val, Nat.zero_add, eq_comm (a := x.val),
    eq_comm (a := y.val)]

theorem nodup_rowCells (py : Fin 32) : (rowCells vx py row).Nodup := by
  refine List.Nodup.map_on (fun c hc c' hc' h => ?_) (List.nodup_range.filter _)
  have hc8 := List.mem_range.1 (List.mem_of_mem_filter hc)
  have hc8' := List.mem_range.1 (List.mem_of_mem_filter hc')
  exact spriteColumn_injective hc8 hc8' (Prod.mk.inj h).1

/-- A sprite of at most 32 rows covers no cell twice (R192). -/
theorem nodup_spriteCells {r : Nat} (h : r + rows.length ≤ 32) : (spriteCells vx vy r rows).Nodup := by
  induction rows generalizing r with
  | nil => exact List.nodup_nil
  | cons row rows ih =>
    rw [List.length_cons] at h
    refine List.nodup_append'.2 ⟨nodup_rowCells _, ih (by omega), fun ⟨x, y⟩ hrow hrest => ?_⟩
    obtain ⟨_, -, -, -, hy⟩ := mem_rowCells.1 hrow
    obtain ⟨k, _, hk, -, -, -, hy'⟩ := mem_spriteCells.1 hrest
    have hr := spriteRow_injective (by omega) (by omega) (hy.trans hy'.symm)
    omega

/-! ### The whole draw (R191, R192) -/

variable {fb : Framebuffer}

theorem cell_drawSprite (h : rows.length ≤ 32) (x : Fin 64) (y : Fin 32) :
    (drawSprite vx vy rows fb).fb.cell x y = (fb.cell x y ^^ decide ((x, y) ∈ spriteCells vx vy 0 rows)) := by
  rw [drawSprite, sprite_eq_pixels, cell_pixels (nodup_spriteCells (by omega))]

theorem collision_drawSprite (h : rows.length ≤ 32) :
    (drawSprite vx vy rows fb).collision = true ↔ ∃ x y, fb.cell x y = true ∧ Covers vx vy rows x y := by
  rw [drawSprite, sprite_eq_pixels, collision_pixels (nodup_spriteCells (by omega))]
  simp only [Bool.false_eq_true, false_or, Prod.exists, mem_spriteCells_iff_covers, and_comm]

/-- `FB xor S`, cell by cell. -/
theorem cell_drawSprite_iff (h : rows.length ≤ 32) (x : Fin 64) (y : Fin 32) :
    (drawSprite vx vy rows fb).fb.cell x y = true ↔ ¬(fb.cell x y = true ↔ Covers vx vy rows x y) := by
  rw [cell_drawSprite h, ← mem_spriteCells_iff_covers]
  by_cases hcell : fb.cell x y = true <;> simp [hcell]

/-- Exclusive or with one mask twice restores every cell. -/
theorem drawSprite_drawSprite (h : rows.length ≤ 32) :
    (drawSprite vx vy rows (drawSprite vx vy rows fb).fb).fb = fb :=
  Framebuffer.ext_cell fun x y => by rw [cell_drawSprite h, cell_drawSprite h, Bool.xor_assoc, Bool.xor_self, Bool.xor_false]

theorem drawSprite_clear_collision (h : rows.length ≤ 32) : (drawSprite vx vy rows Framebuffer.clear).collision = false := by
  rw [← Bool.not_eq_true, collision_drawSprite h]
  rintro ⟨x, y, hcell, -⟩
  rw [Framebuffer.cell_clear] at hcell
  cases hcell

/-- A byte that is not 0 has a set bit. -/
theorem exists_bit {b : Byte} (h : b ≠ 0#8) : ∃ c < 8, b.getLsbD (7 - c) = true := by
  by_contra hno
  refine h (BitVec.eq_of_getLsbD_eq fun k hk => ?_)
  rw [BitVec.getLsbD_zero, ← Bool.not_eq_true]
  intro hbit
  exact hno ⟨7 - k, by omega, by rwa [show 7 - (7 - k) = k by omega]⟩

/-- A sprite with a row that is not 0 covers a cell. -/
theorem exists_covers {k : Nat} (hk : k < rows.length) (h : rows[k] ≠ 0#8) : ∃ x y, Covers vx vy rows x y := by
  obtain ⟨c, hc, hbit⟩ := exists_bit h
  exact ⟨spriteColumn vx c, spriteRow vy k, k, c, hk, hc, hbit, spriteColumn_val vx c, spriteRow_val vy k⟩

/-- The second draw on a clear framebuffer meets the cells that the first one set. -/
theorem drawSprite_twice_clear_collision (h : rows.length ≤ 32) {k : Nat} (hk : k < rows.length) (hrow : rows[k] ≠ 0#8) :
    (drawSprite vx vy rows (drawSprite vx vy rows Framebuffer.clear).fb).collision = true := by
  obtain ⟨x, y, hcovers⟩ := exists_covers (vx := vx) (vy := vy) hk hrow
  refine (collision_drawSprite h).2 ⟨x, y, ?_, hcovers⟩
  rw [cell_drawSprite_iff h, Framebuffer.cell_clear]
  simp [hcovers]

/-! ### The meaning of Dxyn (R191) -/

/-- A sprite has fewer rows than the framebuffer. -/
theorem length_loadBytes_le (s : State) (a : Nat) {n : Nat} (hn : n ≤ 15) : (s.loadBytes a n).length ≤ 32 := by
  rw [State.length_loadBytes]
  omega

/-- The drawing of a Dxyn in the state `s`. -/
def drawing (s : State) (x y : RegIdx) (n : Nat) : Drawing := drawSprite (s.reg x) (s.reg y) (s.loadBytes s.i.toNat n) s.fb

/-- The state after a drawing. -/
def drawn (s : State) (d : Drawing) : State := ({ s with fb := d.fb }.setFlag (collisionFlag d.collision)).advance

theorem exec_drw_of_fits {s : State} {x y : RegIdx} {n : Nat} (h : n = 0 ∨ s.i.toNat + n ≤ 0x1000) :
    exec (.drw x y n) s = .next (drawn s (drawing s x y n)) :=
  withAccess_fits s h _

theorem frame_drawn (s : State) (d : Drawing) : { drawn s d with fb := s.fb, v := s.v, pc := s.pc } = s := rfl

theorem reg_drawn_flag (s : State) (d : Drawing) : (drawn s d).reg 15 = flagByte d.collision := State.reg_setReg_self _ 15 _

theorem reg_drawn_other (s : State) (d : Drawing) {r : RegIdx} (hr : r ≠ 15) : (drawn s d).reg r = s.reg r :=
  State.reg_setReg_other _ hr _

/-- A Dxyn whose operands are not VF finds the same sprite in the state after it. -/
theorem drawing_drawn (s : State) (d : Drawing) {x y : RegIdx} (hx : x ≠ 15) (hy : y ≠ 15) (n : Nat) :
    drawing (drawn s d) x y n = drawSprite (s.reg x) (s.reg y) (s.loadBytes s.i.toNat n) d.fb := by
  rw [drawing, reg_drawn_other s d hx, reg_drawn_other s d hy]
  rfl

end Sys2Proof.Proofs.Draw

namespace Sys2Proof.Proofs

/-- Settles O44: the instruction is a write of the clear framebuffer, and its step reports a draw that completes. -/
theorem clearDisplayClearsEveryCell : Obligations.ClearDisplayClearsEveryCell := by
  refine ⟨Control.selects_row .cls, fun s => ⟨_, rfl, ?cells, rfl, rfl, rfl, rfl, rfl⟩, fun s hhalt hpc hdecode => ?report⟩
  case cells => exact Framebuffer.cell_clear
  case report => exact (Output.displayChanged_of_instr hhalt hpc hdecode rfl).2 ⟨hhalt, .inl rfl⟩

/-- Settles O45: the pixel loop toggles each covered cell once (`nodup_spriteCells`), so each cell is the exclusive or with the
mask and a collision is a covered cell that was set. -/
theorem drawXorsTheSpriteMaskAndReportsCollision : Obligations.DrawXorsTheSpriteMaskAndReportsCollision := by
  refine ⟨Control.selects_row (.drw 0 0 0), fun s x y n hn hfits => ?fits,
    fun s x y n _ hn h => Index.withAccess_outOfBounds _ hn h⟩
  have hrows := Draw.length_loadBytes_le s s.i.toNat hn
  refine ⟨_, Draw.exec_drw_of_fits hfits, Draw.cell_drawSprite_iff hrows, ?collision, ?flag,
    fun r hr => Draw.reg_drawn_other s _ hr, rfl, Draw.frame_drawn s _⟩
  case collision => rw [Draw.reg_drawn_flag, flagByte_eq_one_iff, Draw.drawing, Draw.collision_drawSprite hrows]; rfl
  case flag =>
    rw [Draw.reg_drawn_flag]
    exact flagByte_zero_or_one _

/-- Settles O46: with operands other than VF both draws toggle the same cells, once each. -/
theorem drawingTwiceRestoresTheFramebuffer : Obligations.DrawingTwiceRestoresTheFramebuffer := by
  intro s t u x y n hx hy hn hfits ht hu
  have hrows := Draw.length_loadBytes_le s s.i.toNat hn
  rw [Draw.exec_drw_of_fits (.inr hfits)] at ht
  cases ht
  rw [Draw.exec_drw_of_fits (s := Draw.drawn s _) (.inr hfits)] at hu
  cases hu
  refine ⟨?restores, fun hclear => ⟨?first, ?second⟩⟩
  case restores =>
    change (Draw.drawing (Draw.drawn s (Draw.drawing s x y n)) x y n).fb = s.fb
    rw [Draw.drawing_drawn s _ hx hy]
    exact Draw.drawSprite_drawSprite hrows
  case first =>
    rw [Draw.reg_drawn_flag, flagByte_eq_zero_iff, Draw.drawing, hclear]
    exact Draw.drawSprite_clear_collision hrows
  case second =>
    rintro ⟨k, hk, hrow⟩
    have hkrows : k.val < (s.loadBytes s.i.toNat n).length := by rwa [State.length_loadBytes]
    rw [Draw.reg_drawn_flag, flagByte_eq_one_iff, Draw.drawing_drawn s _ hx hy, Draw.drawing, hclear]
    refine Draw.drawSprite_twice_clear_collision hrows hkrows ?_
    rwa [State.getElem_loadBytes]

end Sys2Proof.Proofs
end

section
/-! SUPPORT. The keypad instructions (44_keypad_timers.md R200 to R203) and the host operations `reset` and `load`
(70_reset_and_hazards.md R260, R266; 60_exceptions.md R227). -/

open Sys2Proof.Machine Sys2Proof.Claims

namespace Sys2Proof.Proofs.Keypad

variable {s : State} {x : RegIdx}

/-! ### The key a register names (R202) -/

theorem keyIndex_eq {b : Byte} {k : Fin 16} (h : k.val = b.toNat % 16) : keyIndex b = k := by
  apply Fin.ext
  rw [h, keyIndex, BitVec.val_toFin, BitVec.extractLsb'_toNat, Nat.shiftRight_zero]

theorem exec_skp : exec (.skp x) s = .next (s.skipIf (s.key (keyIndex (s.reg x)))) := rfl

theorem exec_sknp : exec (.sknp x) s = .next (s.skipIf (!s.key (keyIndex (s.reg x)))) := rfl

/-- A skip on a Boolean condition that says `p`, written out. -/
theorem skipIf_eq_of_iff (s : State) {c : Bool} {p : Prop} [Decidable p] (h : c = true ↔ p) :
    s.skipIf c = { s with pc := if p then s.pc + 4#16 else s.pc + 2#16 } :=
  congrArg (fun w => { s with pc := w }) (Control.skipIf_pc_of_iff s h)

/-! ### The lowest pressed key (R203) -/

theorem lowestKey_eq_some {k : Fin 16} (hk : s.key k = true) (hlower : ∀ j, j < k → s.key j = false) :
    s.lowestKey = some k := by
  rw [State.lowestKey, ← Fin.find?_eq_find?_finRange]
  exact Fin.find?_eq_some_iff.2 ⟨hk, hlower⟩

theorem ofNat_key_toNat (k : Fin 16) : (BitVec.ofNat 8 k.val).toNat = k.val :=
  (BitVec.toNat_ofNat _ _).trans (Nat.mod_eq_of_lt (by omega))

end Sys2Proof.Proofs.Keypad

namespace Sys2Proof.Proofs.Transactions

variable {s t : State}

/-! ### `reset` (R260, R43) -/

theorem unlisted_outside {font : Vector Byte 80} {a : Nat} (h : a < 0x050 ∨ 0x0A0 ≤ a) : Memory.unlisted font a = 0#8 :=
  dif_neg (by omega)

theorem unlisted_font (font : Vector Byte 80) (k : Fin 80) : Memory.unlisted font (0x050 + k.val) = font[k] := by
  have hk := k.isLt
  rw [Memory.unlisted, dif_pos (by omega)]
  simp only [Nat.add_sub_cancel_left, Fin.getElem_fin]

/-! ### `load` (R266) -/

theorem loadTransaction_of_fits {bytes : List Byte} {offset : Nat} (h : offset + bytes.length ≤ 0xFFF) :
    loadTransaction bytes offset s = .next (s.storeBytes offset bytes) := if_pos h

theorem loadTransaction_of_boundary {bytes : List Byte} {offset : Nat} (h : offset + bytes.length = 0x1000) :
    loadTransaction bytes offset s = .refused .loadBoundaryCase := by
  rw [loadTransaction, if_neg (by omega), if_pos h]

theorem loadTransaction_of_exceeds {bytes : List Byte} {offset : Nat} (h : 0x1000 < offset + bytes.length) :
    loadTransaction bytes offset s = .next s := by
  rw [loadTransaction, if_neg (by omega), if_neg (by omega)]

/-! ### Every transaction but `reset` on a halted machine (60_exceptions.md R227) -/

/-- What the halted state keeps: the fault status, the registers, `pc`, I, the framebuffer, the stack and SP. -/
def KeepsHaltedState (s t : State) : Prop :=
  t.halt = true ∧ t.faultKind = s.faultKind ∧ t.faultAddr = s.faultAddr ∧ t.v = s.v ∧ t.pc = s.pc ∧ t.i = s.i ∧
    t.fb = s.fb ∧ t.stack = s.stack ∧ t.sp = s.sp

theorem keepsHaltedState {r : Transaction} (hhalt : s.halt = true) (hreset : r ≠ .reset)
    (h : applyTransaction r s = .next t) : KeepsHaltedState s t := by
  have hself : KeepsHaltedState s s := ⟨hhalt, rfl, rfl, rfl, rfl, rfl, rfl, rfl, rfl⟩
  cases r with
  | reset => exact absurd rfl hreset
  | load bytes offset => obtain ⟨-, rfl⟩ | ⟨-, rfl⟩ := loadTransaction_cases h <;> exact hself
  | step =>
    cases (Step.step_of_halt hhalt).symm.trans h
    exact hself
  | tickTimers =>
    cases h
    exact hself
  | setKey k p =>
    obtain ⟨-, rfl⟩ := setKey_cases h
    exact hself

end Sys2Proof.Proofs.Transactions

namespace Sys2Proof.Proofs

/-- Settles O47: both instructions are a `skipIf` on the key that the low nibble names. -/
theorem keySkipsTestTheLowNibblesKey : Obligations.KeySkipsTestTheLowNibblesKey := by
  refine ⟨Control.selects_row (.skp 0), Control.selects_row (.sknp 0), fun s x k hk => ?_⟩
  rw [Keypad.exec_skp, Keypad.exec_sknp, Keypad.keyIndex_eq hk]
  exact ⟨congrArg _ (Keypad.skipIf_eq_of_iff s Iff.rfl), congrArg _ (Keypad.skipIf_eq_of_iff s (iff_of_eq (Bool.not_eq_true' _)))⟩

/-- Settles O48: the key found is the lowest pressed one (`lowestKey_eq_some`), and it is written as a byte. -/
theorem keyReadWaitsOrStoresTheLowestKey : Obligations.KeyReadWaitsOrStoresTheLowestKey := by
  refine ⟨Control.selects_row (.ldVxK 0), fun s x hkeys => ?wait, fun s x k hk hlower => ?read⟩
  case wait => exact Keypad.exec_ldVxK_of_no_key x ((State.lowestKey_eq_none s).2 hkeys)
  case read =>
    refine ⟨_, Keypad.exec_ldVxK_of_key x (Keypad.lowestKey_eq_some hk hlower), ?key, fun r hr => ?others, rfl, rfl⟩
    case key => rw [Alu.reg_setReg_advance, Keypad.ofNat_key_toNat]
    case others => exact State.reg_setReg_other s hr _

/-- Settles O1: each field of the reset state is a literal, and memory lists no cell, so an address reads as unlisted. -/
theorem resetGivesTheTableOfResetValues : Obligations.ResetGivesTheTableOfResetValues := by
  refine ⟨fun s => ⟨resetTransaction s, rfl, ?registers, rfl, rfl, rfl, ?stack, rfl, rfl, ?keys, ?pixels, rfl, rfl, rfl,
    fun a _ ha => Transactions.unlisted_outside ha, Transactions.unlisted_font s.font, rfl, rfl⟩, rfl⟩
  case registers => simp [State.reg, resetTransaction, State.reset]
  case stack => simp [resetTransaction, State.reset]
  case keys => simp [State.key, resetTransaction, State.reset]
  case pixels => exact Framebuffer.cell_clear

/-- Settles O4: the three ranges of offset + length, and in the first what a read after the write gives. -/
theorem loadCopiesTheBytesOrChangesNothing : Obligations.LoadCopiesTheBytesOrChangesNothing := by
  intro s bytes offset hwf
  refine ⟨fun hfits => ?fits, fun hexceeds => ⟨Transactions.loadTransaction_of_exceeds hexceeds, decide_eq_true hexceeds⟩,
    Transactions.loadTransaction_of_boundary⟩
  have hinside : offset + bytes.length ≤ 0x1000 := by omega
  exact ⟨_, Transactions.loadTransaction_of_fits hfits, decide_eq_false (Nat.not_lt.2 hinside),
    fun k hk => State.readByte_storeBytes_inside s hwf hinside hk, fun a ha => State.readByte_storeBytes_other s ha, rfl⟩

/-- Settles O9: a halted step changes nothing, and the host operations but `reset` write memory, the timers or a key only
(`keepsHaltedState`). -/
theorem haltedMachineStaysAsItIsUntilReset : Obligations.HaltedMachineStaysAsItIsUntilReset :=
  fun _ hhalt => ⟨Step.step_of_halt hhalt, Output.stepOutput_of_halt hhalt,
    fun _ _ hreset h => Transactions.keepsHaltedState hhalt hreset h, ⟨_, rfl, rfl⟩, rfl⟩

end Sys2Proof.Proofs
end
